-- ==== Sys2Proof/Word.lean ====
section
/-! DEFINITION. The data the block handles: bytes, exact rational values, the 5-byte payload, the logical
command, and the names of the sequencer states (00_scope.md R8 to R10, 10_state.md R21, R25, 42 R154). -/

namespace Sys2Proof

/-- A byte of a stream or of a payload (R8): bit 7 is the most significant. -/
abbrev Byte := BitVec 8

/-- A *Value*: an exact rational number (R10). -/
abbrev Value := Rat

/-- Five bytes: a payload, a wire record, the contents of `PB[0..4]` or `EPB[0..4]` (R16, R24, R27, R76).
`b0` is the byte that is sent first. -/
structure Payload where
  b0 : Byte
  b1 : Byte
  b2 : Byte
  b3 : Byte
  b4 : Byte
  deriving DecidableEq, Repr, Inhabited

/-- A ControlCommand (R154): four axis Values and the gripper Flag. -/
structure ControlCommand where
  left : Value
  right : Value
  h : Value
  v : Value
  grab : Bool
  deriving DecidableEq, Repr

/-- The six values of the decoder sequencer `DS` (R21). -/
inductive DecState where
  | hunt0 | hunt1 | pay | esc | end1 | end2
  deriving DecidableEq, Repr

/-- The seven values of the encoder sequencer `ES` (R25). -/
inductive EncState where
  | idle | sm0 | sm1 | dat | dup | em0 | em1
  deriving DecidableEq, Repr

end Sys2Proof
end

