-- ==== Sys2Proof/Config.lean ====
section
/-! DEFINITION. What is fixed for a run: the document's constants (R6), the open parameters (R7) and the free
values of the scratch registers after RESET (R39, R220). -/

namespace Sys2Proof.Config

/-- `ESC` = 0x10, also the first byte of both markers (R6, R84 a). -/
abbrev escByte : Byte := 0x10#8

/-- The second byte of `START` = 0x10 0x02 (R6). -/
abbrev startByte : Byte := 0x02#8

/-- The second byte of `END` = 0x10 0x03 (R6). -/
abbrev endByte : Byte := 0x03#8

/-- `N`, the size of the wire record in bytes (R6). -/
abbrev recordSize : Nat := 5

/-- `SCALE`, the divisor of the range mapping (R6). -/
abbrev scale : Value := 127

/-- `EASE_DIV`, the divisor of the smoothing step (R6). -/
abbrev easeDiv : Value := 4

/-- `TICK_PERIOD` in milliseconds; enters no rule (R6, R237). -/
abbrev tickPeriodMs : Nat := 100

/-- `BAUD`; enters no rule (R6, R237). -/
abbrev baud : Nat := 115200

/-- `NUM_RND` (R7): the identity, which is the default and what every rule and vector is stated with, or some
other function of its argument alone (R164, U6). Log 8. -/
inductive NumFormat where
  | rational
  | rounded
  deriving DecidableEq, Repr

/-- The `NUM_RND` of a realisation with a finite number format: nothing is known of it (U6, log 8). -/
opaque roundOther : Value → Value

/-- `POS_OPENED` of the run from reset: the document gives no number (R7, N2, log 7). -/
opaque posOpened : Value

/-- `POS_CLOSED` of the run from reset: the document gives no number (R7, N2, log 7). -/
opaque posClosed : Value

/-- The open parameters of R7 as plain data; no operation writes them (R37). -/
structure Params where
  posOpened : Value
  posClosed : Value
  numFmt : NumFormat
  deriving DecidableEq, Repr

/-- The parameters of the run from reset: open positions, `NUM_RND` at its default (logs 7 and 8). -/
def params : Params := { posOpened := posOpened, posClosed := posClosed, numFmt := .rational }

/-- FREE VALUE: `IDX` after the n-th RESET (R39 "unspecified", R220 "set to anything"; log 5). -/
opaque freeIdx : Nat → Fin 5

/-- FREE VALUE: `E1OK` after the n-th RESET (R39, R220; log 5). -/
opaque freeE1ok : Nat → Bool

/-- FREE VALUE: `PB[0..4]` after the n-th RESET (R39, R220; log 5). -/
opaque freePb : Nat → Payload

/-- FREE VALUE: `EIDX` after the n-th RESET (R39, R220; log 5). -/
opaque freeEidx : Nat → Fin 5

/-- FREE VALUE: `EPB[0..4]` after the n-th RESET (R39, R220; log 5). -/
opaque freeEpb : Nat → Payload

end Sys2Proof.Config
end

