-- ==== Sys2Proof/Syntax.lean ====
section
/-! DEFINITION. The instructions: one constructor for each of the 28 rows of spec/opcode_table.json (R88, R91). -/

namespace Sys2Proof

/-- The rows of the opcode table, in the table's order: four wire tokens (R71), the twelve (state, byte) classes
of the decoder (R79), the 40-bit record (R76), the eight operations and three pure functions (R88). The mnemonic
START stands for two rows: the token `startMarker` and the host operation `start`. -/
inductive Instr where
  /-- TOKEN `START`: 10 02. -/
  | startMarker
  /-- TOKEN `END`: 10 03. -/
  | endMarker
  /-- TOKEN `ESCAPED_ESCAPE`: 10 10, standing for payload byte 0x10. -/
  | escapedEscape
  /-- TOKEN `PLAIN_BYTE`: one byte b, b != 0x10. -/
  | plainByte (b : Byte)
  /-- `RX_HUNT0_ESC`: state HUNT0, byte 0x10. -/
  | rxHunt0Esc
  /-- `RX_HUNT0_NOISE`: state HUNT0, any other byte. -/
  | rxHunt0Noise (b : Byte)
  /-- `RX_HUNT1_START`: state HUNT1, byte 0x02. -/
  | rxHunt1Start
  /-- `RX_HUNT1_ESC`: state HUNT1, byte 0x10. -/
  | rxHunt1Esc
  /-- `RX_HUNT1_NOISE`: state HUNT1, any other byte. -/
  | rxHunt1Noise (b : Byte)
  /-- `RX_PAY_ESC`: state PAY, byte 0x10. -/
  | rxPayEsc
  /-- `RX_PAY_PLAIN`: state PAY, any other byte. -/
  | rxPayPlain (b : Byte)
  /-- `RX_ESC_LITERAL`: state ESC, byte 0x10. -/
  | rxEscLiteral
  /-- `RX_ESC_ABORT`: state ESC, any other byte. -/
  | rxEscAbort (b : Byte)
  /-- `RX_END1`: state END1, any byte. -/
  | rxEnd1 (b : Byte)
  /-- `RX_END2_ACCEPT`: state END2, `E1OK` = 1, byte 0x03. -/
  | rxEnd2Accept
  /-- `RX_END2_ABORT`: state END2, `E1OK` = 0 or any other byte. -/
  | rxEnd2Abort (b : Byte)
  /-- `WIRE_RECORD`: the record's fields, four int8 and one uint8 (R76, R77). -/
  | wireRecord (left right h v : Int) (grab : Nat)
  /-- `RX_BYTE` (R121). -/
  | rxByte
  /-- `APPLY(cmd)` (R158). -/
  | applyCmd (cmd : ControlCommand)
  /-- `ENC_START(P)` (R104). -/
  | encStart (p : Payload)
  /-- `TX_BYTE` (R105). -/
  | txByte
  /-- `TICK` (R171). -/
  | tick
  /-- host operation `START` (R174). -/
  | start
  /-- host operation `STOP` (R175). -/
  | stop
  /-- `RESET` (R220). -/
  | reset
  /-- pure function `encode(P)` (R100). -/
  | encode (p : Payload)
  /-- pure function `toLogical(P)` (R150). -/
  | toLogical (p : Payload)
  /-- pure function `toWire(cmd)` (R155). -/
  | toWire (cmd : ControlCommand)
  deriving DecidableEq, Repr

end Sys2Proof
end

