-- ==== Sys2Proof/WellFormed.lean ====
section
/-! DEFINITION. Which instruction terms the spec admits: the byte classes of R71 and R79 and the field ranges of
R77. -/

namespace Sys2Proof

/-- An int8 field lies in -128 to 127 (R77). -/
abbrev fitsInt8 (k : Int) : Bool := decide (-128 ≤ k ∧ k ≤ 127)

/-- The operand checks of each row. A row without operands, and a row whose operand type admits every value
(`RX_END1`, `RX_END2_ABORT`, payloads, commands), has nothing to check. -/
def Instr.wf : Instr → Bool
  | .startMarker => true
  | .endMarker => true
  | .escapedEscape => true
  | .plainByte b => b != Config.escByte
  | .rxHunt0Esc => true
  | .rxHunt0Noise b => b != Config.escByte
  | .rxHunt1Start => true
  | .rxHunt1Esc => true
  | .rxHunt1Noise b => b != Config.startByte && b != Config.escByte
  | .rxPayEsc => true
  | .rxPayPlain b => b != Config.escByte
  | .rxEscLiteral => true
  | .rxEscAbort b => b != Config.escByte
  | .rxEnd1 _ => true
  | .rxEnd2Accept => true
  | .rxEnd2Abort _ => true
  | .wireRecord left right h v grab =>
    fitsInt8 left && fitsInt8 right && fitsInt8 h && fitsInt8 v && decide (grab ≤ 255)
  | .rxByte => true
  | .applyCmd _ => true
  | .encStart _ => true
  | .txByte => true
  | .tick => true
  | .start => true
  | .stop => true
  | .reset => true
  | .encode _ => true
  | .toLogical _ => true
  | .toWire _ => true

end Sys2Proof
end

