-- ==== Sys2Proof/Decode.lean ====
section
/-! DEFINITION. From bytes to instructions and back. Three kinds of encoded thing exist (R91): a received byte,
which is read under the decoder state (R79), a wire token (R71), and the 40-bit record (R76). The operations and
functions of R88 have no encoding. -/

namespace Sys2Proof

/-- `uint8(b)` (R9). -/
def uint8 (b : Byte) : Nat := b.toNat

/-- `sint8(b)`: two's complement, -128 to 127 (R9). -/
def sint8 (b : Byte) : Int := if uint8 b ≤ 127 then (uint8 b : Int) else (uint8 b : Int) - 256

/-- `byte_of_sint8(k)`: the byte `k mod 256` (R9). -/
def byteOfSint8 (k : Int) : Byte := BitVec.ofNat 8 (k % 256).toNat

/-- The 40-bit string of a payload: byte 0 in bits 39:32, byte 4 in bits 7:0 (R76). -/
def wordOfPayload (p : Payload) : BitVec 40 := p.b0 ++ p.b1 ++ p.b2 ++ p.b3 ++ p.b4

/-- The payload whose 40-bit string is `w` (R76). -/
def payloadOfWord (w : BitVec 40) : Payload :=
  { b0 := w.extractLsb' 32 8, b1 := w.extractLsb' 24 8, b2 := w.extractLsb' 16 8
    b3 := w.extractLsb' 8 8, b4 := w.extractLsb' 0 8 }

/-- The bytes of a payload in the order they are sent. -/
def Payload.bytes (p : Payload) : List Byte := [p.b0, p.b1, p.b2, p.b3, p.b4]

/-- Why a byte sequence is no encoded instruction of the kind asked for. -/
inductive DecodeReject where
  /-- There is no byte at all. -/
  | noByte
  /-- A lone 0x10: its partner has not been received, so no token is complete (R71). -/
  | partnerMissing
  /-- 0x10 followed by a byte other than 0x02, 0x03, 0x10: no token (R71, R80 a). -/
  | noToken (b : Byte)
  /-- Fewer than five bytes: no record (R76). -/
  | recordTooShort (n : Nat)
  deriving DecidableEq, Repr

/-- What the bytes are read as: a received byte under `DS` and `E1OK`, a wire token, or a record. -/
inductive Source where
  | byte (ds : DecState) (e1ok : Bool)
  | token
  | record
  deriving DecidableEq, Repr

/-- The opcode map of R79: the row of the table that a received byte selects. -/
def decodeByte (ds : DecState) (e1ok : Bool) (b : Byte) : Instr :=
  match ds with
  | .hunt0 => if b = Config.escByte then .rxHunt0Esc else .rxHunt0Noise b
  | .hunt1 =>
    if b = Config.startByte then .rxHunt1Start
    else if b = Config.escByte then .rxHunt1Esc
    else .rxHunt1Noise b
  | .pay => if b = Config.escByte then .rxPayEsc else .rxPayPlain b
  | .esc => if b = Config.escByte then .rxEscLiteral else .rxEscAbort b
  | .end1 => .rxEnd1 b
  | .end2 => if e1ok = true ∧ b = Config.endByte then .rxEnd2Accept else .rxEnd2Abort b

/-- The token a byte 0x10 followed by `b` makes (R71). -/
def decodeEscPair (b : Byte) : Except DecodeReject Instr :=
  if b = Config.startByte then .ok .startMarker
  else if b = Config.endByte then .ok .endMarker
  else if b = Config.escByte then .ok .escapedEscape
  else .error (.noToken b)

/-- The wire token at the front of a stream (R71), and the rest of the stream. -/
def decodeToken : List Byte → Except DecodeReject (Instr × List Byte)
  | [] => .error .noByte
  | b :: rest =>
    if b = Config.escByte then
      match rest with
      | [] => .error .partnerMissing
      | c :: rest' => (decodeEscPair c).map fun i => (i, rest')
    else .ok (.plainByte b, rest)

/-- Field extraction from a record (R77). -/
def decodeRecord (p : Payload) : Instr :=
  .wireRecord (sint8 p.b0) (sint8 p.b1) (sint8 p.b2) (sint8 p.b3) (uint8 p.b4)

/-- The instruction at the front of `bs`, read as `src` says, and the bytes after it. Total: every byte sequence
gives an instruction or a named rejection. -/
def decode (src : Source) (bs : List Byte) : Except DecodeReject (Instr × List Byte) :=
  match src with
  | .byte ds e1ok =>
    match bs with
    | [] => .error .noByte
    | b :: rest => .ok (decodeByte ds e1ok b, rest)
  | .token => decodeToken bs
  | .record =>
    match bs with
    | a :: b :: c :: d :: e :: rest => .ok (decodeRecord ⟨a, b, c, d, e⟩, rest)
    | short => .error (.recordTooShort short.length)

/-- What an instruction's bytes are read as; `none` for the EVENT rows, which have no encoding (R88). The row
`RX_END2_ABORT` is written down with `E1OK` = 0, where it takes every byte. -/
def Instr.source : Instr → Option Source
  | .startMarker => some .token
  | .endMarker => some .token
  | .escapedEscape => some .token
  | .plainByte _ => some .token
  | .rxHunt0Esc => some (.byte .hunt0 false)
  | .rxHunt0Noise _ => some (.byte .hunt0 false)
  | .rxHunt1Start => some (.byte .hunt1 false)
  | .rxHunt1Esc => some (.byte .hunt1 false)
  | .rxHunt1Noise _ => some (.byte .hunt1 false)
  | .rxPayEsc => some (.byte .pay false)
  | .rxPayPlain _ => some (.byte .pay false)
  | .rxEscLiteral => some (.byte .esc false)
  | .rxEscAbort _ => some (.byte .esc false)
  | .rxEnd1 _ => some (.byte .end1 false)
  | .rxEnd2Accept => some (.byte .end2 true)
  | .rxEnd2Abort _ => some (.byte .end2 false)
  | .wireRecord _ _ _ _ _ => some .record
  | .rxByte => none
  | .applyCmd _ => none
  | .encStart _ => none
  | .txByte => none
  | .tick => none
  | .start => none
  | .stop => none
  | .reset => none
  | .encode _ => none
  | .toLogical _ => none
  | .toWire _ => none

/-- The bytes of an instruction, in the order they are sent; the EVENT rows have none (R70, R71, R76, R79). -/
def encode : Instr → List Byte
  | .startMarker => [0x10#8, 0x02#8]
  | .endMarker => [0x10#8, 0x03#8]
  | .escapedEscape => [0x10#8, 0x10#8]
  | .plainByte b => [b]
  | .rxHunt0Esc => [0x10#8]
  | .rxHunt0Noise b => [b]
  | .rxHunt1Start => [0x02#8]
  | .rxHunt1Esc => [0x10#8]
  | .rxHunt1Noise b => [b]
  | .rxPayEsc => [0x10#8]
  | .rxPayPlain b => [b]
  | .rxEscLiteral => [0x10#8]
  | .rxEscAbort b => [b]
  | .rxEnd1 b => [b]
  | .rxEnd2Accept => [0x03#8]
  | .rxEnd2Abort b => [b]
  | .wireRecord left right h v grab =>
    [byteOfSint8 left, byteOfSint8 right, byteOfSint8 h, byteOfSint8 v, BitVec.ofNat 8 grab]
  | .rxByte => []
  | .applyCmd _ => []
  | .encStart _ => []
  | .txByte => []
  | .tick => []
  | .start => []
  | .stop => []
  | .reset => []
  | .encode _ => []
  | .toLogical _ => []
  | .toWire _ => []

/-- The mnemonic of an instruction's row, as spec/opcode_table.json spells it. -/
def Instr.mnemonic : Instr → String
  | .startMarker => "START"
  | .endMarker => "END"
  | .escapedEscape => "ESCAPED_ESCAPE"
  | .plainByte _ => "PLAIN_BYTE"
  | .rxHunt0Esc => "RX_HUNT0_ESC"
  | .rxHunt0Noise _ => "RX_HUNT0_NOISE"
  | .rxHunt1Start => "RX_HUNT1_START"
  | .rxHunt1Esc => "RX_HUNT1_ESC"
  | .rxHunt1Noise _ => "RX_HUNT1_NOISE"
  | .rxPayEsc => "RX_PAY_ESC"
  | .rxPayPlain _ => "RX_PAY_PLAIN"
  | .rxEscLiteral => "RX_ESC_LITERAL"
  | .rxEscAbort _ => "RX_ESC_ABORT"
  | .rxEnd1 _ => "RX_END1"
  | .rxEnd2Accept => "RX_END2_ACCEPT"
  | .rxEnd2Abort _ => "RX_END2_ABORT"
  | .wireRecord _ _ _ _ _ => "WIRE_RECORD"
  | .rxByte => "RX_BYTE"
  | .applyCmd _ => "APPLY"
  | .encStart _ => "ENC_START"
  | .txByte => "TX_BYTE"
  | .tick => "TICK"
  | .start => "START"
  | .stop => "STOP"
  | .reset => "RESET"
  | .encode _ => "encode"
  | .toLogical _ => "toLogical"
  | .toWire _ => "toWire"

/-- A row of format `RX` of the opcode table (R91): it matches byte `b` in state `state` when
`b AND mask = pattern` (and, where `needsE1ok` is set, `E1OK` = 1). -/
structure RxRow where
  mnemonic : String
  state : DecState
  pattern : Byte
  mask : Byte
  priority : Nat
  needsE1ok : Bool
  deriving DecidableEq, Repr

/-- The twelve `RX` rows, copied from spec/opcode_table.json. -/
def rxRows : List RxRow :=
  [ ⟨"RX_HUNT0_ESC", .hunt0, 0x10#8, 0xFF#8, 0, false⟩
  , ⟨"RX_HUNT0_NOISE", .hunt0, 0x00#8, 0x00#8, 1, false⟩
  , ⟨"RX_HUNT1_START", .hunt1, 0x02#8, 0xFF#8, 0, false⟩
  , ⟨"RX_HUNT1_ESC", .hunt1, 0x10#8, 0xFF#8, 0, false⟩
  , ⟨"RX_HUNT1_NOISE", .hunt1, 0x00#8, 0x00#8, 1, false⟩
  , ⟨"RX_PAY_ESC", .pay, 0x10#8, 0xFF#8, 0, false⟩
  , ⟨"RX_PAY_PLAIN", .pay, 0x00#8, 0x00#8, 1, false⟩ ] ++
  [ ⟨"RX_ESC_LITERAL", .esc, 0x10#8, 0xFF#8, 0, false⟩
  , ⟨"RX_ESC_ABORT", .esc, 0x00#8, 0x00#8, 1, false⟩
  , ⟨"RX_END1", .end1, 0x00#8, 0x00#8, 0, false⟩
  , ⟨"RX_END2_ACCEPT", .end2, 0x03#8, 0xFF#8, 0, true⟩
  , ⟨"RX_END2_ABORT", .end2, 0x00#8, 0x00#8, 1, false⟩ ]

/-- Whether a row matches (R91). -/
def RxRow.matchesByte (r : RxRow) (ds : DecState) (e1ok : Bool) (b : Byte) : Bool :=
  r.state == ds && (b &&& r.mask) == r.pattern && (!r.needsE1ok || e1ok)

/-- The instruction kinds a received byte may be read in, for the table's 8-bit words. The bits of a row do not
say the decoder state; the model reads a byte value that some row names (mask 0xFF) in the state of the FIRST row
that names it, and every other byte in HUNT0, the state after reset (log 12). -/
def tableContext (b : Byte) : DecState × Bool :=
  if b = Config.startByte then (.hunt1, false)
  else if b = Config.endByte then (.end2, true)
  else (.hunt0, false)

/-- The bytes of a table word, the most significant (first sent) byte first (R8, R76, R91). -/
def tableBytes (nbits w : Nat) : List Byte :=
  match nbits with
  | 8 => [BitVec.ofNat 8 w]
  | 16 => [BitVec.ofNat 8 (w / 256), BitVec.ofNat 8 w]
  | 40 => (payloadOfWord (BitVec.ofNat 40 w)).bytes
  | _ => []

/-- What a table word is read as, by its width: 8 bits a received byte, 16 bits a token, 40 bits the record. -/
def tableSource (nbits w : Nat) : Option Source :=
  match nbits with
  | 8 => some (.byte (tableContext (BitVec.ofNat 8 w)).1 (tableContext (BitVec.ofNat 8 w)).2)
  | 16 => some .token
  | 40 => some .record
  | _ => none

/-- The instruction the decoder reads from a table word; `none` where the word is not exactly one encoded
instruction (the EVENT rows have no bits at all, R88). -/
def decodeTableWord (nbits w : Nat) : Option Instr :=
  match tableSource nbits w with
  | none => none
  | some src =>
    match decode src (tableBytes nbits w) with
    | .ok (i, []) => some i
    | .ok (_, _ :: _) => none
    | .error _ => none

end Sys2Proof
end

