-- ==== Sys2Proof/Machine/Flags.lean ====
section
/-! DEFINITION. The single-bit values of the block (R33): the gripper Flag (R153, R156) and the comparison that
`E1OK` records (R129). There are no arithmetic flags. -/

namespace Sys2Proof.Machine

/-- `flag(g)`: nonzero means true (R153). -/
def flag (g : Nat) : Bool := decide (g ≠ 0)

/-- `unflag(f)`: 0x01 for true, 0x00 for false (R156). -/
def unflag (f : Bool) : Byte := if f then 0x01#8 else 0x00#8

/-- What `RX_BYTE` in END1 writes to `E1OK`: whether the byte is the first byte of `END` (R129). -/
def firstEndByteMatches (b : Byte) : Bool := b == Config.escByte

end Sys2Proof.Machine
end

