-- ==== Sys2Proof/Machine/Operands.lean ====
section
/-! DEFINITION. Operands and arithmetic: the indexed payload registers, `NUM_RND`, and the two conversions of the
packet translator (00_scope.md R7, R10; 42_packet_translator.md). The conversions take the rounding function as an
argument, because R7 leaves it open. -/

namespace Sys2Proof

/-- `P[i]` (R8, R11). -/
def Payload.get (p : Payload) (i : Fin 5) : Byte :=
  match i with
  | 0 => p.b0
  | 1 => p.b1
  | 2 => p.b2
  | 3 => p.b3
  | 4 => p.b4

/-- `P[i] <- c`, the other elements kept (R11). -/
def Payload.set (p : Payload) (i : Fin 5) (c : Byte) : Payload :=
  match i with
  | 0 => { p with b0 := c }
  | 1 => { p with b1 := c }
  | 2 => { p with b2 := c }
  | 3 => { p with b3 := c }
  | 4 => { p with b4 := c }

namespace Machine

/-- `NUM_RND` of a run (R7, log 8). -/
def numRnd (fmt : Config.NumFormat) (v : Value) : Value :=
  match fmt with
  | .rational => v
  | .rounded => Config.roundOther v

/-- `round_haz(v)`: the nearest integer, ties away from zero (R10). -/
def roundHaz (v : Value) : Int := if 0 ≤ v then (v + 1 / 2).floor else -(-v + 1 / 2).floor

/-- `clamp(k, lo, hi)` (R10). -/
def clamp (k lo hi : Int) : Int := if k < lo then lo else if hi < k then hi else k

/-- `axis(k)` = `NUM_RND(k / 127)` (R151); no clamping (R152, log 15). -/
def axis (rnd : Value → Value) (k : Int) : Value := rnd ((k : Value) / Config.scale)

/-- `unaxis(x)` = `clamp(round_haz(x * 127), -128, 127)` (R157). -/
def unaxis (x : Value) : Int := clamp (roundHaz (x * Config.scale)) (-128) 127

/-- The command of a record's fields (R77, R150). -/
def logicalOfFields (rnd : Value → Value) (left right h v : Int) (grab : Nat) : ControlCommand :=
  { left := axis rnd left, right := axis rnd right, h := axis rnd h, v := axis rnd v, grab := flag grab }

/-- `toLogical(P)` (R150). -/
def toLogical (rnd : Value → Value) (p : Payload) : ControlCommand :=
  logicalOfFields rnd (sint8 p.b0) (sint8 p.b1) (sint8 p.b2) (sint8 p.b3) (uint8 p.b4)

/-- `toWire(cmd)` (R155). -/
def toWire (cmd : ControlCommand) : Payload :=
  { b0 := byteOfSint8 (unaxis cmd.left), b1 := byteOfSint8 (unaxis cmd.right)
    b2 := byteOfSint8 (unaxis cmd.h), b3 := byteOfSint8 (unaxis cmd.v), b4 := unflag cmd.grab }

/-- The value `TICK` stores: one quarter of the remaining distance, through `NUM_RND` (R171). -/
def easeStep (rnd : Value → Value) (cur tgt : Value) : Value := rnd (cur + (tgt - cur) / Config.easeDiv)

end Machine
end Sys2Proof
end

