-- ==== Sys2Proof/Machine/State.lean ====
section
/-! DEFINITION. The state of the block (10_state.md), its boundary streams, the run's constants and the schedule;
its value after reset; and how a step could stop. -/

namespace Sys2Proof.Machine

/-- No operation of the block raises an exception to anyone (R11, R190), so nothing stops with a fault. -/
inductive Fault where
  deriving DecidableEq, Repr

/-- Refusals. Every row of the table has its meaning, so nothing raises this one. -/
inductive Refusal where
  /-- Raised by an arm of `exec` whose instruction has no meaning yet: safe. There is no such arm. -/
  | notModelled (mnemonic : String)
  deriving DecidableEq, Repr

/-- The labels of the two places where an attempt ends without delivery (R134, R191). They are the spec's names;
no register holds one (R33, R192). -/
inductive AbortCause where
  | escPair
  | badEnd
  deriving DecidableEq, Repr

/-- The decoder's registers (R20). -/
structure Decoder where
  /-- `DS` (R21). -/
  ds : DecState
  /-- `IDX`, 0 to 4 (R22). -/
  idx : Fin 5
  /-- `E1OK` (R23). -/
  e1ok : Bool
  /-- `PB[0..4]` (R24). -/
  pb : Payload
  deriving DecidableEq, Repr

/-- The encoder's registers (R20). -/
structure Encoder where
  /-- `ES` (R25). -/
  es : EncState
  /-- `EIDX`, 0 to 4 (R26). -/
  eidx : Fin 5
  /-- `EPB[0..4]` (R27). -/
  epb : Payload
  deriving DecidableEq, Repr

/-- The actuator registers and the smoothing register (R20). -/
structure Actuators where
  /-- `DL` (R28). -/
  dl : Option Value
  /-- `DR` (R28). -/
  dr : Option Value
  /-- `AH` (R28). -/
  ah : Option Value
  /-- `AV` (R28). -/
  av : Option Value
  /-- `GP_TGT` (R29). -/
  gpTgt : Value
  /-- `GP_CUR` (R30). -/
  gpCur : Value
  /-- `TICK_EN` (R31). -/
  tickEn : Bool
  deriving DecidableEq, Repr

/-- What comes next from outside: the transport appends a byte (R35), or an agent moves. The schedule is open
(R37, R58 c); a state holds it as data (log 1). -/
inductive Event where
  /-- The transport appends `b` to the end of `RX` (R35). -/
  | arrive (b : Byte)
  /-- The decoder fetches the front byte of `RX`, reads it under `DS` and `E1OK` (R79) and runs the row. -/
  | byte
  /-- The decoder fetches a whole wire token (R71) from the front of `RX` and runs it. -/
  | token
  /-- The translator is handed the 40-bit record `w` (R76). -/
  | record (w : BitVec 40)
  /-- An agent performs an operation that has no encoding (R88). -/
  | op (i : Instr)
  deriving DecidableEq, Repr

/-- What a call of a pure function handed back to its caller (R88; the model's own log, log 9). -/
inductive CallResult where
  | nothing
  /-- The bytes of `encode(P)` (R100). -/
  | frame (bytes : List Byte)
  /-- The command of `toLogical(P)` (R150). -/
  | command (cmd : ControlCommand)
  /-- The record of `toWire(cmd)` (R155). -/
  | record (p : Payload)
  deriving DecidableEq, Repr

/-- The machine. `dec`, `enc` and `act` are the state of R20; `rx`, `tx` and `delivered` its boundary (R35, R36);
the rest is the model's (INVENTORY.md, ## State). -/
structure State where
  dec : Decoder
  enc : Encoder
  act : Actuators
  /-- `RX`: delivered by the transport, not yet consumed (R35). -/
  rx : List Byte
  /-- `TX` as observed since reset (R35, R39). -/
  tx : List Byte
  /-- Bytes handed to the transport before the last RESET (R221 b, log 6). -/
  txPrior : List Byte
  /-- `DELIVERED` (R36). -/
  delivered : List Payload
  /-- What the last pure call returned (log 9). -/
  result : CallResult
  /-- The events to come, the next one first. DESIGN CHOICE (log 1): this list is finite, where an execution may be
  infinite (R12); infinite executions are `Machine.Course` in Machine/Execution.lean. -/
  sched : List Event
  /-- How many times RESET has drawn free values (log 5). -/
  freeCount : Nat
  /-- The run's constants (R7, R37, log 7). -/
  cfg : Config.Params
  deriving DecidableEq, Repr

/-- Five zero bytes, the value log 4 names for `PB` and `EPB` at reset. -/
def zeroPayload : Payload := ⟨0, 0, 0, 0, 0⟩

/-- The machine right after power-on: the table of R39. `IDX`, `E1OK`, `PB`, `EIDX` and `EPB`, which R39 leaves
unspecified, hold zero (DESIGN CHOICE, log 4). -/
def State.reset : State :=
  { dec := { ds := .hunt0, idx := 0, e1ok := false, pb := zeroPayload }
    enc := { es := .idle, eidx := 0, epb := zeroPayload }
    act :=
      { dl := none, dr := none, ah := none, av := none
        gpTgt := Config.params.posOpened, gpCur := Config.params.posOpened, tickEn := false }
    rx := [], tx := [], txPrior := [], delivered := [], result := .nothing, sched := [], freeCount := 0
    cfg := Config.params }

/-- Replace the decoder registers. -/
def State.setDec (s : State) (d : Decoder) : State := { s with dec := d }

/-- Replace the encoder registers. -/
def State.setEnc (s : State) (e : Encoder) : State := { s with enc := e }

/-- Replace the actuator and smoothing registers. -/
def State.setAct (s : State) (a : Actuators) : State := { s with act := a }

/-- Replace `RX`. -/
def State.setRx (s : State) (bs : List Byte) : State := { s with rx := bs }

/-- Replace `TX` as observed. -/
def State.setTx (s : State) (bs : List Byte) : State := { s with tx := bs }

/-- Replace the record of bytes sent before the last RESET. -/
def State.setTxPrior (s : State) (bs : List Byte) : State := { s with txPrior := bs }

/-- Replace `DELIVERED`. -/
def State.setDelivered (s : State) (ps : List Payload) : State := { s with delivered := ps }

/-- Replace the result of the last pure call. -/
def State.setResult (s : State) (r : CallResult) : State := { s with result := r }

/-- Replace the schedule. -/
def State.setSched (s : State) (es : List Event) : State := { s with sched := es }

/-- Replace the free-value counter. -/
def State.setFreeCount (s : State) (n : Nat) : State := { s with freeCount := n }

end Sys2Proof.Machine
end

