-- ==== Sys2Proof/Machine/Framing.lean ====
section
/-! DEFINITION. The framing codec as functions: `stuff` and `encode` (R72, R100), the decoder's transition table as
one function and its fold over a byte sequence (R133, R141), and the encoder's transition table (R112). The
operations of the machine are written rule by rule in Receive.lean and Transmit.lean; these are the clear forms
they are compared with. -/

namespace Sys2Proof.Machine

/-- `stuff(b)` (R72). -/
def stuff (b : Byte) : List Byte := if b = Config.escByte then [Config.escByte, Config.escByte] else [b]

/-- The escaped payload (R72). -/
def escapedPayload (p : Payload) : List Byte := p.bytes.flatMap stuff

/-- `encode(P)`: `START`, the escaped payload, `END` (R70, R100). -/
def encodeFrame (p : Payload) : List Byte :=
  [Config.escByte, Config.startByte] ++ escapedPayload p ++ [Config.escByte, Config.endByte]

/-- One row of the decoder's transition table (R133): the registers after byte `b`, and the payload delivered by an
accept. -/
def decStep (d : Decoder) (b : Byte) : Decoder × Option Payload :=
  match d.ds with
  | .hunt0 => if b = 0x10#8 then ({ d with ds := .hunt1 }, none) else ({ d with ds := .hunt0 }, none)
  | .hunt1 =>
    if b = 0x02#8 then ({ d with ds := .pay, idx := 0 }, none)
    else if b = 0x10#8 then ({ d with ds := .hunt1 }, none)
    else ({ d with ds := .hunt0 }, none)
  | .pay =>
    if b = 0x10#8 then ({ d with ds := .esc }, none)
    else if d.idx = 4 then ({ d with ds := .end1, pb := d.pb.set 4 b }, none)
    else ({ d with idx := d.idx + 1, pb := d.pb.set d.idx b }, none)
  | .esc =>
    if b = 0x10#8 then
      if d.idx = 4 then ({ d with ds := .end1, pb := d.pb.set 4 0x10#8 }, none)
      else ({ d with ds := .pay, idx := d.idx + 1, pb := d.pb.set d.idx 0x10#8 }, none)
    else ({ d with ds := .hunt0 }, none)
  | .end1 => ({ d with ds := .end2, e1ok := b == 0x10#8 }, none)
  | .end2 =>
    if d.e1ok = true ∧ b = 0x03#8 then ({ d with ds := .hunt0 }, some d.pb) else ({ d with ds := .hunt0 }, none)

/-- `dec_run(s, w)` (R141): the decoder after consuming `w`, and the payloads delivered, in order. -/
def decRun (d : Decoder) : List Byte → Decoder × List Payload
  | [] => (d, [])
  | b :: w =>
    let first := decStep d b
    let rest := decRun first.1 w
    (rest.1, first.2.toList ++ rest.2)

/-- One row of the encoder's transition table (R112): the byte pushed and the registers after it; `none` in IDLE,
where `TX_BYTE` is not enabled. -/
def encStep (e : Encoder) : Option (Byte × Encoder) :=
  match e.es with
  | .idle => none
  | .sm0 => some (0x10#8, { e with es := .sm1 })
  | .sm1 => some (0x02#8, { e with es := .dat, eidx := 0 })
  | .dat =>
    if e.epb.get e.eidx = 0x10#8 then some (0x10#8, { e with es := .dup })
    else if e.eidx = 4 then some (e.epb.get e.eidx, { e with es := .em0 })
    else some (e.epb.get e.eidx, { e with eidx := e.eidx + 1 })
  | .dup =>
    if e.eidx = 4 then some (0x10#8, { e with es := .em0 })
    else some (0x10#8, { e with es := .dat, eidx := e.eidx + 1 })
  | .em0 => some (0x10#8, { e with es := .em1 })
  | .em1 => some (0x03#8, { e with es := .idle })

end Sys2Proof.Machine
end

