-- ==== Sys2Proof/Machine/Ops.lean ====
section
/-! DEFINITION. The shared operations over the registers and streams: the primitives of R11, `dec_store`,
`enc_advance`, `accept`, `abort` and the effect of `APPLY`. -/

namespace Sys2Proof.Machine

/-- What a meaning answers. -/
abbrev Answer := Host.Outcome State Fault Refusal

/-- An operation that is not enabled does not happen: nothing changes (R12, R51 c; V-SM-07, V-ENC-11; log 2). -/
def wait (s : State) : Answer := .next s

/-- `DS <- d`. -/
def setDs (d : DecState) (s : State) : State := s.setDec { s.dec with ds := d }

/-- `ES <- e`. -/
def setEs (e : EncState) (s : State) : State := s.setEnc { s.enc with es := e }

/-- `START` found: `IDX <- 0; DS <- PAY` (R123); `PB` is not cleared. -/
def beginAttempt (s : State) : State := s.setDec { s.dec with ds := .pay, idx := 0 }

/-- `dec_store(c)` (R128). -/
def decStore (c : Byte) (s : State) : State :=
  let pb := s.dec.pb.set s.dec.idx c
  if s.dec.idx = 4 then s.setDec { s.dec with ds := .end1, pb := pb }
  else s.setDec { s.dec with ds := .pay, idx := s.dec.idx + 1, pb := pb }

/-- First end byte: `E1OK` records the comparison, `DS <- END2` whatever it was (R129, log 16). -/
def firstEndByte (b : Byte) (s : State) : State :=
  s.setDec { s.dec with ds := .end2, e1ok := firstEndByteMatches b }

/-- `abort(cause)`, the block's analogue of taking an exception (R134, R192): `DS <- HUNT0` and nothing else. The
cause is a label that is stored nowhere. There is no return from it (R193). -/
def abort (_cause : AbortCause) (s : State) : State := setDs .hunt0 s

/-- `deliver(P)` (R11, R36). -/
def deliver (p : Payload) (s : State) : State := s.setDelivered (s.delivered ++ [p])

/-- The gripper position a Flag selects (R159). -/
def gripperTarget (cfg : Config.Params) (grab : Bool) : Value := if grab then cfg.posClosed else cfg.posOpened

/-- The effect of `APPLY(cmd)`: five registers change together, `GP_CUR` does not (R158). -/
def applyCommand (cmd : ControlCommand) (s : State) : State :=
  s.setAct
    { s.act with
      dl := some cmd.left, dr := some cmd.right, ah := some cmd.h, av := some cmd.v
      gpTgt := gripperTarget s.cfg cmd.grab }

/-- `accept()`: deliver, translate, apply and hunt afresh in one operation (R132). -/
def accept (s : State) : State :=
  setDs .hunt0 (applyCommand (toLogical (numRnd s.cfg.numFmt) s.dec.pb) (deliver s.dec.pb s))

/-- `TxPush(b)` (R11). -/
def txPush (b : Byte) (s : State) : State := s.setTx (s.tx ++ [b])

/-- `enc_advance()` (R108). -/
def encAdvance (s : State) : State :=
  if s.enc.eidx = 4 then setEs .em0 s else s.setEnc { s.enc with es := .dat, eidx := s.enc.eidx + 1 }

/-- The six output registers as the environment reads them between two operations (R43); `none` is "no value". -/
structure Outputs where
  dl : Option Value
  dr : Option Value
  ah : Option Value
  av : Option Value
  gpTgt : Value
  gpCur : Value
  deriving DecidableEq, Repr

/-- A driver's snapshot of the outputs (R43, R55, R230): it has no side effect. -/
def outputs (s : State) : Outputs :=
  { dl := s.act.dl, dr := s.act.dr, ah := s.act.ah, av := s.act.av, gpTgt := s.act.gpTgt, gpCur := s.act.gpCur }

/-- Every byte ever handed to the transport, over RESETs too (R221 b, log 6). -/
def wireOut (s : State) : List Byte := s.txPrior ++ s.tx

end Sys2Proof.Machine
end

