-- ==== Sys2Proof/Machine/Restart.lean ====
section
/-! DEFINITION. `RESET` (70_reset_and_hazards.md R220). -/

namespace Sys2Proof.Machine

/-- The decoder after RESET: `DS` = HUNT0; `IDX`, `E1OK`, `PB` hold free values ("left as they are or set to
anything", R220; log 5). -/
def resetDecoder (n : Nat) : Decoder :=
  { ds := .hunt0, idx := Config.freeIdx n, e1ok := Config.freeE1ok n, pb := Config.freePb n }

/-- The encoder after RESET: `ES` = IDLE; `EIDX`, `EPB` hold free values (R220; log 5). -/
def resetEncoder (n : Nat) : Encoder :=
  { es := .idle, eidx := Config.freeEidx n, epb := Config.freeEpb n }

/-- The actuator and smoothing registers after RESET (R220, R39). -/
def resetActuators (cfg : Config.Params) : Actuators :=
  { dl := none, dr := none, ah := none, av := none
    gpTgt := cfg.posOpened, gpCur := cfg.posOpened, tickEn := false }

/-- `RESET` (R220): `RX` is not touched; the observations `TX` and `DELIVERED` start again empty, and the bytes
already sent are kept in `txPrior` (R221 b, log 6). -/
def execReset (s : State) : Answer :=
  .next
    { s with
      dec := resetDecoder s.freeCount, enc := resetEncoder s.freeCount, act := resetActuators s.cfg
      tx := [], txPrior := s.txPrior ++ s.tx, delivered := [], freeCount := s.freeCount + 1 }

end Sys2Proof.Machine
end

