-- ==== Sys2Proof/Machine/Smooth.lean ====
section
/-! DEFINITION. The smoothing register: `TICK`, `START`, `STOP` (43_smoothing.md). -/

namespace Sys2Proof.Machine

/-- `TICK` (R171); enabled iff `TICK_EN` = 1 (R170; the fairness R170 assumes is `TickFair`, Machine/Execution.lean). -/
def execTick (s : State) : Answer :=
  if s.act.tickEn then
    .next (s.setAct { s.act with gpCur := easeStep (numRnd s.cfg.numFmt) s.act.gpCur s.act.gpTgt })
  else wait s

/-- The host operation `START` (R174). -/
def execStart (s : State) : Answer := .next (s.setAct { s.act with tickEn := true })

/-- `STOP` (R175). -/
def execStop (s : State) : Answer := .next (s.setAct { s.act with tickEn := false })

end Sys2Proof.Machine
end

