-- ==== Sys2Proof/Machine/Receive.lean ====
section
/-! DEFINITION. The decoder agent: the twelve `RX` rows of the opcode map (R79) and `RX_BYTE` (R121 to R134). -/

namespace Sys2Proof.Machine

/-- A row of the opcode map: when `RX` begins with `b` and the row `fits` the decoder state, the byte is consumed
(R51 b) and `effect` takes place, in one operation; otherwise the row is not what the decoder does next (log 11). -/
def rxRow (fits : Bool) (b : Byte) (effect : State → State) (s : State) : Answer :=
  match s.rx with
  | [] => wait s
  | c :: rest => if fits = true ∧ c = b then .next (effect (s.setRx rest)) else wait s

/-- `RX_HUNT0_ESC` (R122). -/
def execRxHunt0Esc (s : State) : Answer :=
  rxRow (s.dec.ds == .hunt0) Config.escByte (setDs .hunt1) s

/-- `RX_HUNT0_NOISE` (R122): the byte is discarded. -/
def execRxHunt0Noise (b : Byte) (s : State) : Answer :=
  rxRow (s.dec.ds == .hunt0 && b != Config.escByte) b (setDs .hunt0) s

/-- `RX_HUNT1_START` (R123): an attempt begins. -/
def execRxHunt1Start (s : State) : Answer :=
  rxRow (s.dec.ds == .hunt1) Config.startByte beginAttempt s

/-- `RX_HUNT1_ESC` (R123 a): this 0x10 may itself begin `START`. -/
def execRxHunt1Esc (s : State) : Answer :=
  rxRow (s.dec.ds == .hunt1) Config.escByte (setDs .hunt1) s

/-- `RX_HUNT1_NOISE` (R123): both bytes were noise. -/
def execRxHunt1Noise (b : Byte) (s : State) : Answer :=
  rxRow (s.dec.ds == .hunt1 && b != Config.startByte && b != Config.escByte) b (setDs .hunt0) s

/-- `RX_PAY_ESC` (R125). -/
def execRxPayEsc (s : State) : Answer :=
  rxRow (s.dec.ds == .pay) Config.escByte (setDs .esc) s

/-- `RX_PAY_PLAIN` (R124, R128). -/
def execRxPayPlain (b : Byte) (s : State) : Answer :=
  rxRow (s.dec.ds == .pay && b != Config.escByte) b (decStore b) s

/-- `RX_ESC_LITERAL` (R126, R128). -/
def execRxEscLiteral (s : State) : Answer :=
  rxRow (s.dec.ds == .esc) Config.escByte (decStore Config.escByte) s

/-- `RX_ESC_ABORT` (R127, R134). -/
def execRxEscAbort (b : Byte) (s : State) : Answer :=
  rxRow (s.dec.ds == .esc && b != Config.escByte) b (abort .escPair) s

/-- `RX_END1` (R129): any byte. -/
def execRxEnd1 (b : Byte) (s : State) : Answer :=
  rxRow (s.dec.ds == .end1) b (firstEndByte b) s

/-- `RX_END2_ACCEPT` (R130, R132). -/
def execRxEnd2Accept (s : State) : Answer :=
  rxRow (s.dec.ds == .end2 && s.dec.e1ok) Config.endByte accept s

/-- `RX_END2_ABORT` (R131, R134). -/
def execRxEnd2Abort (b : Byte) (s : State) : Answer :=
  rxRow (s.dec.ds == .end2 && !(s.dec.e1ok && b == Config.endByte)) b (abort .badEnd) s

/-- The effect of consuming byte `b` in the current decoder state: rule by rule, R122 to R131. -/
def rxEffect (b : Byte) (s : State) : State :=
  match s.dec.ds with
  | .hunt0 => if b = Config.escByte then setDs .hunt1 s else setDs .hunt0 s
  | .hunt1 =>
    if b = Config.startByte then beginAttempt s
    else if b = Config.escByte then setDs .hunt1 s
    else setDs .hunt0 s
  | .pay => if b = Config.escByte then setDs .esc s else decStore b s
  | .esc => if b = Config.escByte then decStore Config.escByte s else abort .escPair s
  | .end1 => firstEndByte b s
  | .end2 => if s.dec.e1ok = true ∧ b = Config.endByte then accept s else abort .badEnd s

/-- `RX_BYTE` (R121): `b := RxPop()`, then the rule for the current `DS`. Not enabled while `RX` is empty (R51 c). -/
def execRxByte (s : State) : Answer :=
  match s.rx with
  | [] => wait s
  | b :: rest => .next (rxEffect b (s.setRx rest))

end Sys2Proof.Machine
end

