-- ==== Sys2Proof/Machine/Token.lean ====
section
/-! DEFINITION. The wire tokens (R71) as things the decoder consumes: when the token's bytes stand at the front of
`RX`, one `RX_BYTE` a byte, in order (R89; log 10). -/

namespace Sys2Proof.Machine

/-- `n` times `RX_BYTE`. -/
def rxTimes : Nat → State → Answer
  | 0, s => .next s
  | n + 1, s =>
    match execRxByte s with
    | .next t => rxTimes n t
    | .fault r => .fault r
    | .refused r => .refused r

/-- Consume the token whose bytes are `tok`, if they stand at the front of `RX`. -/
def rxToken (tok : List Byte) (s : State) : Answer :=
  if tok.isPrefixOf s.rx then rxTimes tok.length s else wait s

/-- TOKEN `START`, 10 02 (R70): in hunt it begins an attempt (R123). -/
def execStartMarker (s : State) : Answer := rxToken [Config.escByte, Config.startByte] s

/-- TOKEN `END`, 10 03 (R70): after five payload tokens it completes the frame (R129, R130). -/
def execEndMarker (s : State) : Answer := rxToken [Config.escByte, Config.endByte] s

/-- TOKEN `ESCAPED_ESCAPE`, 10 10 (R72): at a payload position it stands for the payload byte 0x10 (R126). -/
def execEscapedEscape (s : State) : Answer := rxToken [Config.escByte, Config.escByte] s

/-- TOKEN `PLAIN_BYTE`, one byte b != 0x10 (R71): at a payload position it stands for itself (R124). -/
def execPlainByte (b : Byte) (s : State) : Answer :=
  if b = Config.escByte then wait s else rxToken [b] s

end Sys2Proof.Machine
end

