-- ==== Sys2Proof/Machine/Translate.lean ====
section
/-! DEFINITION. The packet translator: `WIRE_RECORD`, `APPLY`, `toLogical`, `toWire` (42_packet_translator.md). The
pure functions change no state of the block; what they return is kept in the model's `result` (log 9). -/

namespace Sys2Proof.Machine

/-- `WIRE_RECORD` (R76, R77): the record's fields become the logical command (R150; log 13). -/
def execWireRecord (left right h v : Int) (grab : Nat) (s : State) : Answer :=
  .next (s.setResult (.command (logicalOfFields (numRnd s.cfg.numFmt) left right h v grab)))

/-- `APPLY(cmd)` (R158). No event runs it on its own (log 14). -/
def execApplyCmd (cmd : ControlCommand) (s : State) : Answer := .next (applyCommand cmd s)

/-- `toLogical(P)` (R150). -/
def execToLogical (p : Payload) (s : State) : Answer :=
  .next (s.setResult (.command (toLogical (numRnd s.cfg.numFmt) p)))

/-- `toWire(cmd)` (R155). -/
def execToWire (cmd : ControlCommand) (s : State) : Answer := .next (s.setResult (.record (toWire cmd)))

end Sys2Proof.Machine
end

