-- ==== Sys2Proof/Machine/Transmit.lean ====
section
/-! DEFINITION. The encoder: `ENC_START`, `TX_BYTE` and the pure function `encode` (40_framing_encoder.md). -/

namespace Sys2Proof.Machine

/-- `ENC_START(P)` (R104): no effect unless `ES` = IDLE (log 17). -/
def execEncStart (p : Payload) (s : State) : Answer :=
  match s.enc.es with
  | .idle => .next (s.setEnc { es := .sm0, eidx := 0, epb := p })
  | .sm0 | .sm1 | .dat | .dup | .em0 | .em1 => .next s

/-- `TX_BYTE` in state DAT (R107). -/
def txData (s : State) : State :=
  let b := s.enc.epb.get s.enc.eidx
  if b = Config.escByte then setEs .dup (txPush b s) else encAdvance (txPush b s)

/-- `TX_BYTE` (R105): one byte and one move of `ES`, by its value (R106, R107, R109 to R111). -/
def execTxByte (s : State) : Answer :=
  match s.enc.es with
  | .idle => wait s
  | .sm0 => .next (setEs .sm1 (txPush Config.escByte s))
  | .sm1 => .next ((txPush Config.startByte s).setEnc { s.enc with es := .dat, eidx := 0 })
  | .dat => .next (txData s)
  | .dup => .next (encAdvance (txPush Config.escByte s))
  | .em0 => .next (setEs .em1 (txPush Config.escByte s))
  | .em1 => .next (setEs .idle (txPush Config.endByte s))

/-- `encode(P)` (R100); what it returns is kept in `result` (log 9). -/
def execEncode (p : Payload) (s : State) : Answer := .next (s.setResult (.frame (encodeFrame p)))

end Sys2Proof.Machine
end

