-- ==== Sys2Proof/Machine/Dispatch.lean ====
section
/-! DEFINITION. One arm for each row of the opcode table. -/

namespace Sys2Proof.Machine

def exec (i : Instr) (s : State) : Host.Outcome State Fault Refusal :=
  match i with
  | .startMarker => Sys2Proof.Machine.execStartMarker s
  | .endMarker => Sys2Proof.Machine.execEndMarker s
  | .escapedEscape => Sys2Proof.Machine.execEscapedEscape s
  | .plainByte b => Sys2Proof.Machine.execPlainByte b s
  | .rxHunt0Esc => Sys2Proof.Machine.execRxHunt0Esc s
  | .rxHunt0Noise b => Sys2Proof.Machine.execRxHunt0Noise b s
  | .rxHunt1Start => Sys2Proof.Machine.execRxHunt1Start s
  | .rxHunt1Esc => Sys2Proof.Machine.execRxHunt1Esc s
  | .rxHunt1Noise b => Sys2Proof.Machine.execRxHunt1Noise b s
  | .rxPayEsc => Sys2Proof.Machine.execRxPayEsc s
  | .rxPayPlain b => Sys2Proof.Machine.execRxPayPlain b s
  | .rxEscLiteral => Sys2Proof.Machine.execRxEscLiteral s
  | .rxEscAbort b => Sys2Proof.Machine.execRxEscAbort b s
  | .rxEnd1 b => Sys2Proof.Machine.execRxEnd1 b s
  | .rxEnd2Accept => Sys2Proof.Machine.execRxEnd2Accept s
  | .rxEnd2Abort b => Sys2Proof.Machine.execRxEnd2Abort b s
  | .wireRecord left right h v grab => Sys2Proof.Machine.execWireRecord left right h v grab s
  | .rxByte => Sys2Proof.Machine.execRxByte s
  | .applyCmd cmd => Sys2Proof.Machine.execApplyCmd cmd s
  | .encStart p => Sys2Proof.Machine.execEncStart p s
  | .txByte => Sys2Proof.Machine.execTxByte s
  | .tick => Sys2Proof.Machine.execTick s
  | .start => Sys2Proof.Machine.execStart s
  | .stop => Sys2Proof.Machine.execStop s
  | .reset => Sys2Proof.Machine.execReset s
  | .encode p => Sys2Proof.Machine.execEncode p s
  | .toLogical p => Sys2Proof.Machine.execToLogical p s
  | .toWire cmd => Sys2Proof.Machine.execToWire cmd s

end Sys2Proof.Machine
end

