-- ==== Sys2Proof/Machine/Fetch.lean ====
section
/-! DEFINITION. When an operation is enabled (R88), which agent performs it (R12), and what the next event makes the
block run. -/

namespace Sys2Proof.Machine

/-- The four agents of R12, and the environment's transport. -/
inductive Agent where
  | decoder
  | encoder
  | ticker
  | host
  | transport
  deriving DecidableEq, Repr

/-- Who performs an instruction (R12, R88). `encode` is a host operation by R88 and `toWire` the host's by R155. DESIGN
CHOICE (log 23): a call of `toLogical` on its own, and of the record row, for which the spec names no agent, is given to
the host. No step reads this. -/
def instrAgent : Instr → Agent
  | .startMarker | .endMarker | .escapedEscape | .plainByte _ => .decoder
  | .rxHunt0Esc | .rxHunt0Noise _ => .decoder
  | .rxHunt1Start | .rxHunt1Esc | .rxHunt1Noise _ => .decoder
  | .rxPayEsc | .rxPayPlain _ => .decoder
  | .rxEscLiteral | .rxEscAbort _ => .decoder
  | .rxEnd1 _ | .rxEnd2Accept | .rxEnd2Abort _ => .decoder
  | .rxByte | .applyCmd _ => .decoder
  | .txByte => .encoder
  | .tick => .ticker
  | .encStart _ | .start | .stop | .reset => .host
  | .wireRecord _ _ _ _ _ | .encode _ | .toLogical _ | .toWire _ => .host

/-- Who moves at an event. DESIGN CHOICE (log 23): the host hands in the record; the spec names no agent for it. No step
reads this. -/
def eventAgent : Event → Agent
  | .arrive _ => .transport
  | .byte | .token => .decoder
  | .record _ => .host
  | .op i => instrAgent i

/-- The row a received byte selects now; `none` while `RX` is empty. -/
def currentRow (s : State) : Option Instr :=
  match s.rx with
  | [] => none
  | b :: _ => some (decodeByte s.dec.ds s.dec.e1ok b)

/-- The wire token at the front of `RX`, if there is one. -/
def currentToken (s : State) : Option Instr :=
  match decodeToken s.rx with
  | .ok (i, _) => some i
  | .error _ => none

/-- The column "enabled when" of R88, row by row of the table: `RX_BYTE` iff `RX` is not empty (R51 c), `TX_BYTE`
iff `ES` != IDLE (R105), `TICK` iff `TICK_EN` = 1 (R170), `APPLY` never on its own (R158), the host's operations and
the pure functions always; a token or a byte class when it is what stands at the front of `RX`. -/
def enabled (i : Instr) (s : State) : Bool :=
  match i with
  | .startMarker | .endMarker | .escapedEscape | .plainByte _ => currentToken s == some i
  | .rxHunt0Esc | .rxHunt0Noise _ => currentRow s == some i
  | .rxHunt1Start | .rxHunt1Esc | .rxHunt1Noise _ => currentRow s == some i
  | .rxPayEsc | .rxPayPlain _ => currentRow s == some i
  | .rxEscLiteral | .rxEscAbort _ => currentRow s == some i
  | .rxEnd1 _ | .rxEnd2Accept | .rxEnd2Abort _ => currentRow s == some i
  | .rxByte => !s.rx.isEmpty
  | .applyCmd _ => false
  | .txByte => s.enc.es != .idle
  | .tick => s.act.tickEn
  | .encStart _ | .start | .stop | .reset => true
  | .wireRecord _ _ _ _ _ | .encode _ | .toLogical _ | .toWire _ => true

/-- The instruction found in an encoded form of kind `src` at the front of `bs`. -/
def fetchFrom (src : Source) (bs : List Byte) : Option Instr :=
  match decode src bs with
  | .ok (i, _) => some i
  | .error _ => none

/-- What event `e` makes the block run now; `none` where the agent has nothing to do (no byte, no complete token,
an operation that is not enabled) and where the event is the transport's. -/
def fetch (e : Event) (s : State) : Option Instr :=
  match e with
  | .arrive _ => none
  | .byte => fetchFrom (.byte s.dec.ds s.dec.e1ok) s.rx
  | .token => fetchFrom .token s.rx
  | .record w => fetchFrom .record (payloadOfWord w).bytes
  | .op i => if enabled i s then some i else none

/-- The transport delivers a byte: it is appended to the end of `RX` (R35). -/
def arrival (b : Byte) (s : State) : State := s.setRx (s.rx ++ [b])

/-- One event: a byte arrives, or the fetched instruction runs, or nothing happens (log 2). -/
def perform (e : Event) (s : State) : Answer :=
  match e with
  | .arrive b => .next (arrival b s)
  | .byte | .token | .record _ | .op _ =>
    match fetch e s with
    | some i => exec i s
    | none => wait s

/-- Set up `s` so that the very next step fetches and runs the table word (log 12): a byte or a token goes to the
front of `RX` with the decoder's turn next, and a byte is met in the state its row names; a record is handed to the
translator. A width no row has leaves `s` as it is. -/
def placeWord (s : State) (nbits w : Nat) : State :=
  match nbits with
  | 8 =>
    let c := tableContext (BitVec.ofNat 8 w)
    ((s.setDec { s.dec with ds := c.1, e1ok := c.2 }).setRx (tableBytes 8 w ++ s.rx)).setSched (.byte :: s.sched)
  | 16 => (s.setRx (tableBytes 16 w ++ s.rx)).setSched (.token :: s.sched)
  | 40 => s.setSched (.record (BitVec.ofNat 40 w) :: s.sched)
  | _ => s

end Sys2Proof.Machine
end

