-- ==== Sys2Proof/Machine/Step.lean ====
section
/-! DEFINITION. One step: the next event of the schedule happens (R12, R58; log 1). -/

namespace Sys2Proof.Machine

/-- The first event of the schedule is taken off and performed; with no event left nothing happens
(DESIGN CHOICE: the schedule is a finite list, log 1). -/
def step (s : State) : Host.Outcome State Fault Refusal :=
  match s.sched with
  | [] => wait s
  | e :: rest => perform e (s.setSched rest)

/-- The table word stands where `step` fetches next (log 12). -/
def State.withFetchWord (s : State) (nbits w : Nat) : State := placeWord s nbits w

/-- `n` steps. -/
def stepN : Nat → State → Host.Outcome State Fault Refusal
  | 0, s => .next s
  | n + 1, s =>
    match step s with
    | .next t => stepN n t
    | .fault r => .fault r
    | .refused r => .refused r

/-- Perform the events `es` in order, and nothing else: a finite execution (log 1). -/
def play (es : List Event) (s : State) : Host.Outcome State Fault Refusal := stepN es.length (s.setSched es)

end Sys2Proof.Machine
end

