-- ==== Sys2Proof/Machine/Script.lean ====
section
/-! DEFINITION. The event scripts of R89, the analogue of assembler syntax, and the same-edge order of a clocked
realisation (R198). -/

namespace Sys2Proof.Machine

/-- A line of an event script (R89). -/
inductive Line where
  /-- `RX b0 b1 …`: one `RX_BYTE` for each byte. -/
  | rx (bytes : List Byte)
  /-- A line that names an operation. -/
  | op (i : Instr)
  /-- `FRAME p0 p1 p2 p3 p4`. -/
  | frame (p : Payload)
  /-- `TX_ALL`: `TX_BYTE` until `ES` = IDLE. -/
  | txAll
  /-- `TICK*n`. -/
  | ticks (n : Nat)
  deriving DecidableEq, Repr

/-- Each byte arrives and is consumed by one `RX_BYTE` (R89; `RX` is empty before the line). -/
def rxEvents (bytes : List Byte) : List Event := bytes.flatMap fun b => [.arrive b, .op .rxByte]

/-- The expansion of a line (R89). A frame takes at most 14 `TX_BYTE` (R101), and one that comes after the last is
not enabled and does nothing. -/
def lineEvents : Line → List Event
  | .rx bytes => rxEvents bytes
  | .op i => [.op i]
  | .frame p => rxEvents (encodeFrame p)
  | .txAll => List.replicate 14 (.op .txByte)
  | .ticks n => List.replicate n (.op .tick)

/-- Run a script. -/
def runScript (lines : List Line) (s : State) : Host.Outcome State Fault Refusal := play (lines.flatMap lineEvents) s

/-- What the encoder's inputs ask for on a clock edge (R198: `TX_BYTE` or `ENC_START`). -/
inductive EncoderEdge where
  | transmit
  | load (p : Payload)
  deriving DecidableEq, Repr

/-- What the host's control inputs ask for on a clock edge (R198: `START` or `STOP`). -/
inductive ControlEdge where
  | start
  | stop
  deriving DecidableEq, Repr

/-- The operations that fall on one clock edge of a clocked realisation (R198, D15; log 22). -/
structure Edge where
  tick : Bool
  rx : Bool
  encoder : Option EncoderEdge
  control : Option ControlEdge
  reset : Bool
  deriving DecidableEq, Repr

/-- The order that one edge is equivalent to: `TICK`, `RX_BYTE`, `TX_BYTE` or `ENC_START`, `START` or `STOP`; `RESET`
overrides all of them (R198). -/
def edgeEvents (e : Edge) : List Event :=
  if e.reset then [.op .reset]
  else
    (if e.tick then [.op .tick] else []) ++ (if e.rx then [.op .rxByte] else []) ++
    (match e.encoder with
     | none => []
     | some .transmit => [.op .txByte]
     | some (.load p) => [.op (.encStart p)]) ++
    (match e.control with
     | none => []
     | some .start => [.op .start]
     | some .stop => [.op .stop])

/-- One clock edge (R198). -/
def clockEdge (e : Edge) (s : State) : Host.Outcome State Fault Refusal := play (edgeEvents e) s

end Sys2Proof.Machine
end

