-- ==== Sys2Proof/Machine/Execution.lean ====
section
/-! DEFINITION. Infinite executions (R12) and the fairness of the tick (R170). State holds a finite schedule; an infinite
execution is a sequence of events given from outside, of which every finite part is a schedule (log 1). -/

namespace Sys2Proof.Machine

/-- An infinite course of events: what happens at moment 0, 1, 2, … (R12). It is no part of State (R37). -/
abbrev Course := Nat → Event

/-- The state an event leads to. (Nothing stops the block, R190; the two other outcomes would leave it where it was.) -/
def after (e : Event) (s : State) : State :=
  match perform e s with
  | .next t => t
  | .fault _ => s
  | .refused _ => s

/-- The state of an infinite execution at moment `n`: `n` events of the course have happened. -/
def stateAt (c : Course) (s : State) : Nat → State
  | 0 => s
  | n + 1 => after (c n) (stateAt c s n)

/-- The events of a course before moment `n`, as a schedule. -/
def Course.upTo (c : Course) (n : Nat) : List Event := (List.range n).map c

/-- The fairness assumption of R170: while `TICK_EN` stays 1, a further `TICK` eventually happens. -/
def TickFair (c : Course) (s : State) : Prop :=
  ∀ n, (∀ m, n ≤ m → (stateAt c s m).act.tickEn = true) → ∃ m, n ≤ m ∧ c m = .op .tick

end Sys2Proof.Machine
end

