-- ==== Sys2Proof/Safety.lean ====
section
/-! DEFINITION. What claims are stated in: the invariants of R40, and which events leave which agent's registers
alone (R41). -/

namespace Sys2Proof.Safety
open Sys2Proof.Machine

/-- I2 (R40): in DUP the byte being doubled is the escape byte. (The range of `EIDX` is its type.) -/
def dupIsEscape (s : State) : Prop := s.enc.es = .dup → s.enc.epb.get s.enc.eidx = 0x10#8

/-- I3 (R40, R29): the gripper target is one of the two positions. -/
def targetIsPosition (s : State) : Prop := s.act.gpTgt = s.cfg.posOpened ∨ s.act.gpTgt = s.cfg.posClosed

/-- A power level as `toLogical` makes it: `NUM_RND(k/127)` for an integer k in -128 to 127 (R151, R152). -/
def isAxisValue (cfg : Config.Params) (v : Value) : Prop :=
  ∃ k : Int, -128 ≤ k ∧ k ≤ 127 ∧ v = numRnd cfg.numFmt ((k : Value) / 127)

/-- I4 (R40): the four levels are all `none` or all axis values. -/
def levelsTogether (s : State) : Prop :=
  (s.act.dl = none ∧ s.act.dr = none ∧ s.act.ah = none ∧ s.act.av = none) ∨
  ∃ l r h v, s.act.dl = some l ∧ s.act.dr = some r ∧ s.act.ah = some h ∧ s.act.av = some v ∧
    isAxisValue s.cfg l ∧ isAxisValue s.cfg r ∧ isAxisValue s.cfg h ∧ isAxisValue s.cfg v

/-- `x` lies in the closed interval whose ends are `a` and `b`, in either order (D11 assumes none). -/
def liesBetween (a b x : Value) : Prop := min a b ≤ x ∧ x ≤ max a b

/-- I5 (R40, R179): with `NUM_RND` the identity the gripper stays between the two positions. -/
def gripperBetween (s : State) : Prop :=
  s.cfg.numFmt = .rational → liesBetween s.cfg.posOpened s.cfg.posClosed s.act.gpCur

/-- The invariant of every reachable state (R40 I2 to I5; I1 and the ranges of I2 are the types of `IDX`, `EIDX`). -/
structure BlockInv (s : State) : Prop where
  dup : dupIsEscape s
  target : targetIsPosition s
  levels : levelsTogether s
  gripper : gripperBetween s

/-- The instruction may write a decoder register or take a byte from `RX` (R41: `RX_BYTE`, `RESET`). -/
def writesDecoder : Instr → Bool
  | .startMarker | .endMarker | .escapedEscape | .plainByte _ => true
  | .rxHunt0Esc | .rxHunt0Noise _ | .rxHunt1Start | .rxHunt1Esc | .rxHunt1Noise _ => true
  | .rxPayEsc | .rxPayPlain _ | .rxEscLiteral | .rxEscAbort _ => true
  | .rxEnd1 _ | .rxEnd2Accept | .rxEnd2Abort _ | .rxByte | .reset => true
  | .wireRecord _ _ _ _ _ | .applyCmd _ | .encStart _ | .txByte | .tick | .start | .stop => false
  | .encode _ | .toLogical _ | .toWire _ => false

/-- The instruction may write an encoder register or push a byte (R41: `ENC_START`, `TX_BYTE`, `RESET`). -/
def writesEncoder : Instr → Bool
  | .encStart _ | .txByte | .reset => true
  | .startMarker | .endMarker | .escapedEscape | .plainByte _ => false
  | .rxHunt0Esc | .rxHunt0Noise _ | .rxHunt1Start | .rxHunt1Esc | .rxHunt1Noise _ => false
  | .rxPayEsc | .rxPayPlain _ | .rxEscLiteral | .rxEscAbort _ => false
  | .rxEnd1 _ | .rxEnd2Accept | .rxEnd2Abort _ | .rxByte => false
  | .wireRecord _ _ _ _ _ | .applyCmd _ | .tick | .start | .stop => false
  | .encode _ | .toLogical _ | .toWire _ => false

/-- The instruction may write `GP_TGT` (R41: `APPLY` inside `RX_BYTE`, `RESET`); the same ones write `DL`, `DR`,
`AH`, `AV`. -/
def writesTarget : Instr → Bool
  | .startMarker | .endMarker | .escapedEscape | .plainByte _ => true
  | .rxHunt0Esc | .rxHunt0Noise _ | .rxHunt1Start | .rxHunt1Esc | .rxHunt1Noise _ => false
  | .rxPayEsc | .rxPayPlain _ | .rxEscLiteral | .rxEscAbort _ => false
  | .rxEnd1 _ | .rxEnd2Abort _ => false
  | .rxEnd2Accept | .rxByte | .applyCmd _ | .reset => true
  | .wireRecord _ _ _ _ _ | .encStart _ | .txByte | .tick | .start | .stop => false
  | .encode _ | .toLogical _ | .toWire _ => false

/-- The instruction may write `GP_CUR` (R41: `TICK`, `RESET`). -/
def writesPosition : Instr → Bool
  | .tick | .reset => true
  | .startMarker | .endMarker | .escapedEscape | .plainByte _ => false
  | .rxHunt0Esc | .rxHunt0Noise _ | .rxHunt1Start | .rxHunt1Esc | .rxHunt1Noise _ => false
  | .rxPayEsc | .rxPayPlain _ | .rxEscLiteral | .rxEscAbort _ => false
  | .rxEnd1 _ | .rxEnd2Accept | .rxEnd2Abort _ | .rxByte => false
  | .wireRecord _ _ _ _ _ | .applyCmd _ | .encStart _ | .txByte | .start | .stop => false
  | .encode _ | .toLogical _ | .toWire _ => false

/-- The instruction may write `TICK_EN` (R41: `START`, `STOP`, `RESET`). -/
def writesTickEn : Instr → Bool
  | .start | .stop | .reset => true
  | .startMarker | .endMarker | .escapedEscape | .plainByte _ => false
  | .rxHunt0Esc | .rxHunt0Noise _ | .rxHunt1Start | .rxHunt1Esc | .rxHunt1Noise _ => false
  | .rxPayEsc | .rxPayPlain _ | .rxEscLiteral | .rxEscAbort _ => false
  | .rxEnd1 _ | .rxEnd2Accept | .rxEnd2Abort _ | .rxByte => false
  | .wireRecord _ _ _ _ _ | .applyCmd _ | .encStart _ | .txByte | .tick => false
  | .encode _ | .toLogical _ | .toWire _ => false

/-- An event may write what an instruction with property `w` may write; `viaRx` says whether a fetch from `RX` can. -/
def eventWrites (w : Instr → Bool) (viaRx : Bool) : Event → Bool
  | .arrive _ => false
  | .byte => viaRx
  | .token => viaRx
  | .record _ => false
  | .op i => w i

/-- Row `i` of the opcode map, and `RX_BYTE` itself, both complete in `s` and lead to `t`. -/
def rowRuns (i : Instr) (s t : State) : Prop := exec i s = .next t ∧ exec .rxByte s = .next t

/-- `t` is `s` after the payload byte `c` was stored and the stream advanced to `rest` (R128): element `IDX` of `PB`
is `c`, the others are kept, the count goes on or the payload is complete; nothing else changes. -/
def storesPayloadByte (c : Byte) (rest : List Byte) (s t : State) : Prop :=
  t = { s with dec := t.dec, rx := rest } ∧ t.dec.e1ok = s.dec.e1ok ∧
  t.dec.pb.get s.dec.idx = c ∧ (∀ j, j ≠ s.dec.idx → t.dec.pb.get j = s.dec.pb.get j) ∧
  (if s.dec.idx.val = 4 then t.dec.ds = .end1 ∧ t.dec.idx = s.dec.idx
   else t.dec.ds = .pay ∧ t.dec.idx.val = s.dec.idx.val + 1)

/-- `s` after an accept (R132), written out: the payload is delivered, the four levels are its first four bytes
divided by 127 (R150, R151), the gripper target is selected by its fifth (R153, R159), the decoder hunts afresh, the
stream has advanced to `rest`, and every other register is kept. -/
def afterAccept (rest : List Byte) (s : State) : State :=
  { s with
    rx := rest
    dec := { s.dec with ds := .hunt0 }
    delivered := s.delivered ++ [s.dec.pb]
    act :=
      { s.act with
        dl := some (numRnd s.cfg.numFmt ((sint8 s.dec.pb.b0 : Value) / 127))
        dr := some (numRnd s.cfg.numFmt ((sint8 s.dec.pb.b1 : Value) / 127))
        ah := some (numRnd s.cfg.numFmt ((sint8 s.dec.pb.b2 : Value) / 127))
        av := some (numRnd s.cfg.numFmt ((sint8 s.dec.pb.b3 : Value) / 127))
        gpTgt := if s.dec.pb.b4 = 0 then s.cfg.posOpened else s.cfg.posClosed } }

/-- A run in which `TICK` happens `n` times while it is enabled, and any other events in between leave `GP_TGT` and
`GP_CUR` as they are (R177). -/
inductive EasingRun : Nat → State → State → Prop where
  | done (s : State) : EasingRun 0 s s
  | ticked {n : Nat} {s t u : State} :
      s.act.tickEn = true → perform (.op .tick) s = .next t → EasingRun n t u → EasingRun (n + 1) s u
  | between {n : Nat} {s t u : State} (e : Event) :
      perform e s = .next t → t.act.gpTgt = s.act.gpTgt → t.act.gpCur = s.act.gpCur → EasingRun n t u →
      EasingRun n s u

/-- Two states that agree on everything but the scratch registers `IDX`, `E1OK`, `PB`, `EIDX`, `EPB` (R39). -/
def agreeButScratch (s s' : State) : Prop :=
  s' = { s with dec := { s'.dec with ds := s.dec.ds }, enc := { s'.enc with es := s.enc.es } }

end Sys2Proof.Safety
end

