-- ==== Sys2Proof/Certificates/Slice0/Obligations.lean ====
section
/-! DEFINITION. The statements for the provers. Bytes are written as the spec writes them (0x10, 0x02, 0x03). -/

open Sys2Proof Sys2Proof.Machine Sys2Proof.Safety

/-! ## Encodings -/

/-- Decode and encode agree (R71, R76, R79, R91): every well-formed instruction that has an encoding is read back
from its bytes, whatever bytes follow. -/
def Obligations.EveryEncodedInstructionDecodesBack : Prop :=
  ∀ (i : Instr) (src : Source) (rest : List Byte), i.wf = true → i.source = some src →
    decode src (encode i ++ rest) = .ok (i, rest)

/-- The other direction: what the decoder reads is well formed and stands for exactly the bytes it took. -/
def Obligations.DecodedBytesAreTheInstructionsEncoding : Prop :=
  ∀ (src : Source) (bs rest : List Byte) (i : Instr), decode src bs = .ok (i, rest) →
    i.wf = true ∧ bs = encode i ++ rest

/-- A few words written out from the spec's encodings (R70, R72, R76, R79): START, END, ESCAPED_ESCAPE, PLAIN_BYTE 7F,
the document's record 7F 81 00 00 01, and received bytes in four decoder states. -/
def Obligations.WrittenWordsDecode : Prop :=
  decodeTableWord 16 0b0001000000000010 = some .startMarker ∧
  decodeTableWord 16 0b0001000000000011 = some .endMarker ∧
  decodeTableWord 16 0b0001000000010000 = some .escapedEscape ∧
  decode .token [0x7F#8] = .ok (.plainByte 0x7F#8, []) ∧
  decodeTableWord 40 0x7F81000001 = some (.wireRecord 127 (-127) 0 0 1) ∧
  decode (.byte .hunt0 false) [0x10#8] = .ok (.rxHunt0Esc, []) ∧
  decode (.byte .hunt1 false) [0x02#8] = .ok (.rxHunt1Start, []) ∧
  decode (.byte .esc false) [0x03#8] = .ok (.rxEscAbort 0x03#8, []) ∧
  decode (.byte .end2 true) [0x03#8] = .ok (.rxEnd2Accept, []) ∧
  decode (.byte .end2 false) [0x03#8] = .ok (.rxEnd2Abort 0x03#8, [])

/-- The opcode map against the machine-readable table (R79, R91): the row the decoder takes matches, and of all the
rows that match it is the only one of the lowest priority number. -/
def Obligations.ReceivedByteSelectsItsTableRow : Prop :=
  ∀ (ds : DecState) (e1ok : Bool) (b : Byte), ∃ r ∈ rxRows, r.mnemonic = (decodeByte ds e1ok b).mnemonic ∧
    r.matchesByte ds e1ok b = true ∧
    ∀ r' ∈ rxRows, r'.matchesByte ds e1ok b = true → r' ≠ r → r.priority < r'.priority

/-- R76 and R77: in the 40-bit string byte 0 is bits 39:32 and byte 4 bits 7:0, the two forms determine each other, and
the record's fields are its five bytes, four of them two's-complement and the last unsigned. -/
def Obligations.RecordWordLayout : Prop :=
  (∀ p : Payload, (wordOfPayload p).toNat =
    p.b0.toNat * 2 ^ 32 + p.b1.toNat * 2 ^ 24 + p.b2.toNat * 2 ^ 16 + p.b3.toNat * 2 ^ 8 + p.b4.toNat) ∧
  (∀ p : Payload, payloadOfWord (wordOfPayload p) = p) ∧
  (∀ w : BitVec 40, wordOfPayload (payloadOfWord w) = w) ∧
  (∀ p : Payload, decode .record p.bytes =
    .ok (.wireRecord p.b0.toInt p.b1.toInt p.b2.toInt p.b3.toInt p.b4.toNat, []))

/-! ## The step -/

/-- A step performs the next event of the schedule: when the bytes an event fetches decode to `i`, the step is `exec i`
(the model's schedule, log 1); an operation without encoding runs when it is enabled (R88); the transport's byte goes
to the end of `RX` (R35); with no event left nothing happens. -/
def Obligations.StepRunsTheDecodedInstruction : Prop :=
  ∀ (s : State) (es : List Event),
    (∀ i rest, s.sched = .byte :: es → decode (.byte s.dec.ds s.dec.e1ok) s.rx = .ok (i, rest) →
      step s = exec i (s.setSched es)) ∧
    (∀ i rest, s.sched = .token :: es → decode .token s.rx = .ok (i, rest) → step s = exec i (s.setSched es)) ∧
    (∀ w i rest, s.sched = .record w :: es → decode .record (payloadOfWord w).bytes = .ok (i, rest) →
      step s = exec i (s.setSched es)) ∧
    (∀ i, s.sched = .op i :: es → enabled i (s.setSched es) = true → step s = exec i (s.setSched es)) ∧
    (∀ b, s.sched = .arrive b :: es → step s = .next { s with rx := s.rx ++ [b], sched := es }) ∧
    (s.sched = [] → step s = .next s)

/-- Nothing stops the block (R190): every instruction, in every state, answers a next state, and so does every step. -/
def Obligations.NothingEverStopsTheBlock : Prop :=
  (∀ (i : Instr) (s : State), ∃ t, exec i s = .next t) ∧ (∀ s : State, ∃ t, step s = .next t)

/-- An operation that is not enabled (column "enabled when" of R88) does not happen; V-SM-07 and V-ENC-11 are
instances. That a scheduled operation that is not enabled is passed over is the model's choice (log 2). `APPLY` is
never enabled on its own; its meaning is stated in ApplyWritesTheFiveRegisters. -/
def Obligations.OperationNotEnabledChangesNothing : Prop :=
  ∀ (i : Instr) (s : State), (∀ cmd, i ≠ .applyCmd cmd) → enabled i s = false → exec i s = .next s

/-- The access table (R41): an instruction that is not a writer of a register leaves it alone; nobody writes the run's
constants (R37) or the schedule. -/
def Obligations.RegistersAreWrittenOnlyByTheirOwners : Prop :=
  ∀ (i : Instr) (s t : State), exec i s = .next t →
    (writesDecoder i = false → t.dec = s.dec ∧ t.rx = s.rx ∧ t.delivered = s.delivered) ∧
    (writesEncoder i = false → t.enc = s.enc ∧ t.tx = s.tx ∧ t.txPrior = s.txPrior) ∧
    (writesTarget i = false →
      t.act.dl = s.act.dl ∧ t.act.dr = s.act.dr ∧ t.act.ah = s.act.ah ∧ t.act.av = s.act.av ∧
      t.act.gpTgt = s.act.gpTgt) ∧
    (writesPosition i = false → t.act.gpCur = s.act.gpCur) ∧
    (writesTickEn i = false → t.act.tickEn = s.act.tickEn) ∧
    t.cfg = s.cfg ∧ t.sched = s.sched

/-- The stream discipline (R35, R51, R52): a step takes bytes only from the front of `RX` and only the transport's
event adds one, at the end; the bytes handed to the transport are only ever added to, even by RESET (log 6). -/
def Obligations.StreamsAreFirstInFirstOut : Prop :=
  ∀ s t : State, step s = .next t →
    (∃ taken added, taken ++ t.rx = s.rx ++ added ∧
      (added = [] ∨ ∃ b es, s.sched = .arrive b :: es ∧ added = [b])) ∧
    ∃ sent, wireOut t = wireOut s ++ sent ∧ sent.length ≤ 1

/-! ## The invariant -/

/-- R40: every step keeps I2 to I5 (I1 is the type of `IDX`), whatever the schedule. -/
def Obligations.StepKeepsTheInvariant : Prop :=
  ∀ s t : State, BlockInv s → step s = .next t → BlockInv t

/-- The state right after reset meets the invariant of R40. -/
def Obligations.ResetStateMeetsTheInvariant : Prop := BlockInv State.reset

/-! ## The decoder -/

/-- R122: hunting with no marker byte pending. The byte is consumed, and only `DS` may change. -/
def Obligations.Hunt0RowsFollowTheirRule : Prop :=
  ∀ (s : State) (rest : List Byte) (b : Byte), s.rx = b :: rest → s.dec.ds = .hunt0 →
    (b = 0x10#8 → rowRuns .rxHunt0Esc s { s with rx := rest, dec := { s.dec with ds := .hunt1 } }) ∧
    (b ≠ 0x10#8 → rowRuns (.rxHunt0Noise b) s { s with rx := rest })

/-- R123: hunting after a byte 0x10. The byte is consumed, and only `DS` (and `IDX` when `START` is found) changes. That
HUNT1 stays on 0x10 is the spec's own decision D6 (log 16). -/
def Obligations.Hunt1RowsFollowTheirRule : Prop :=
  ∀ (s : State) (rest : List Byte) (b : Byte), s.rx = b :: rest → s.dec.ds = .hunt1 →
    (b = 0x02#8 → rowRuns .rxHunt1Start s { s with rx := rest, dec := { s.dec with ds := .pay, idx := 0 } }) ∧
    (b = 0x10#8 → rowRuns .rxHunt1Esc s { s with rx := rest }) ∧
    (b ≠ 0x02#8 → b ≠ 0x10#8 →
      rowRuns (.rxHunt1Noise b) s { s with rx := rest, dec := { s.dec with ds := .hunt0 } })

/-- R124 to R126 and R128: payload bytes, plain and escaped, at every index. -/
def Obligations.PayloadRowsFollowTheirRules : Prop :=
  ∀ (s : State) (rest : List Byte) (b : Byte), s.rx = b :: rest →
    (s.dec.ds = .pay →
      (b = 0x10#8 → rowRuns .rxPayEsc s { s with rx := rest, dec := { s.dec with ds := .esc } }) ∧
      (b ≠ 0x10#8 → ∃ t, rowRuns (.rxPayPlain b) s t ∧ storesPayloadByte b rest s t)) ∧
    (s.dec.ds = .esc → b = 0x10#8 → ∃ t, rowRuns .rxEscLiteral s t ∧ storesPayloadByte 0x10#8 rest s t)

/-- R127, R131 and R134: an abort consumes the byte, writes `DS <- HUNT0`, and nothing else changes. -/
def Obligations.AbortRowsWriteOnlyTheSequencer : Prop :=
  ∀ (s : State) (rest : List Byte) (b : Byte), s.rx = b :: rest →
    (s.dec.ds = .esc → b ≠ 0x10#8 →
      rowRuns (.rxEscAbort b) s { s with rx := rest, dec := { s.dec with ds := .hunt0 } }) ∧
    (s.dec.ds = .end2 → (s.dec.e1ok = false ∨ b ≠ 0x03#8) →
      rowRuns (.rxEnd2Abort b) s { s with rx := rest, dec := { s.dec with ds := .hunt0 } })

/-- R129, R130 and R132: the first end byte is only remembered (the spec's decision D8, log 16); after it, 0x03 accepts
the payload, and delivery, translation and application are one operation (its decision D9). -/
def Obligations.EndRowsRememberThenAccept : Prop :=
  ∀ (s : State) (rest : List Byte) (b : Byte), s.rx = b :: rest →
    (s.dec.ds = .end1 →
      rowRuns (.rxEnd1 b) s { s with rx := rest, dec := { s.dec with ds := .end2, e1ok := decide (b = 0x10#8) } }) ∧
    (s.dec.ds = .end2 → s.dec.e1ok = true → b = 0x03#8 → rowRuns .rxEnd2Accept s (afterAccept rest s))

/-- R121 with R79: `RX_BYTE` is the row that the received byte selects. -/
def Obligations.RxByteRunsTheSelectedRow : Prop :=
  ∀ (s : State) (b : Byte) (rest : List Byte), s.rx = b :: rest →
    exec .rxByte s = exec (decodeByte s.dec.ds s.dec.e1ok b) s

/-- The rules of `RX_BYTE` agree with the transition table of R133 (`decStep`) in every state, on every byte: the
registers, the delivery, the application, and the frame. -/
def Obligations.RxByteFollowsTheTransitionTable : Prop :=
  ∀ (s : State) (b : Byte) (rest : List Byte), s.rx = b :: rest → ∃ t, exec .rxByte s = .next t ∧
    t.dec = (decStep s.dec b).1 ∧
    (∀ p, (decStep s.dec b).2 = some p → p = s.dec.pb ∧ t = afterAccept rest s) ∧
    ((decStep s.dec b).2 = none → t = { s with dec := t.dec, rx := rest })

/-- R71: in the place where it is valid, each token has the effect it stands for. -/
def Obligations.TokensStandForTheirEffects : Prop :=
  ∀ (s : State) (rest : List Byte),
    ((s.dec.ds = .hunt0 ∨ s.dec.ds = .hunt1) → s.rx = 0x10#8 :: 0x02#8 :: rest →
      exec .startMarker s = .next { s with rx := rest, dec := { s.dec with ds := .pay, idx := 0 } }) ∧
    (∀ b, b ≠ 0x10#8 → s.dec.ds = .pay → s.rx = b :: rest →
      ∃ t, exec (.plainByte b) s = .next t ∧ storesPayloadByte b rest s t) ∧
    (s.dec.ds = .pay → s.rx = 0x10#8 :: 0x10#8 :: rest →
      ∃ t, exec .escapedEscape s = .next t ∧ storesPayloadByte 0x10#8 rest s t) ∧
    (s.dec.ds = .end1 → s.rx = 0x10#8 :: 0x03#8 :: rest →
      exec .endMarker s = .next { afterAccept rest s with dec := { s.dec with ds := .hunt0, e1ok := true } })

/-- A token anywhere else is no more than its bytes (R71, R89; log 10): whenever they stand at the front of `RX`, the
token completes, the decoder goes where `dec_run` says, and nothing is left over. -/
def Obligations.TokensRunTheirBytesEverywhere : Prop :=
  ∀ (i : Instr) (s : State) (rest : List Byte), i.source = some .token → i.wf = true → s.rx = encode i ++ rest →
    ∃ t, exec i s = .next t ∧ t.rx = rest ∧ t.dec = (decRun s.dec (encode i)).1 ∧
      t.delivered = s.delivered ++ (decRun s.dec (encode i)).2 ∧
      ((decRun s.dec (encode i)).2 = [] → t.act = s.act) ∧ t.enc = s.enc ∧ t.tx = s.tx ∧ t.txPrior = s.txPrior ∧
      t.act.gpCur = s.act.gpCur ∧ t.act.tickEn = s.act.tickEn ∧ t.result = s.result

/-- R141: `dec_run` over a concatenation is `dec_run` over the parts. -/
def Obligations.DecRunSplitsOverConcatenation : Prop :=
  ∀ (d : Decoder) (u w : List Byte),
    decRun d (u ++ w) = ((decRun (decRun d u).1 w).1, (decRun d u).2 ++ (decRun (decRun d u).1 w).2)

/-- `RX_BYTE` once for each byte of `w` is `dec_run` over `w`, whatever the other agents do in between (R141): the
other events write no decoder register, take nothing from `RX` and deliver nothing. -/
def Obligations.DecoderRunsIgnoreOtherAgents : Prop :=
  ∀ (s : State) (w rest : List Byte) (es : List Event), s.rx = w ++ rest →
    (∀ e ∈ es, e = .op .rxByte ∨ eventWrites writesDecoder true e = false) →
    es.count (.op .rxByte) = w.length →
    ∃ t, play es s = .next t ∧ t.dec = (decRun s.dec w).1 ∧ t.delivered = s.delivered ++ (decRun s.dec w).2 ∧
      ∃ later, t.rx = rest ++ later

/-- R137, escape correctness, under every interleaving with the other agents: a hunting decoder that consumes
`encode(P)` delivers P once, has applied its command, and hunts. -/
def Obligations.FrameIsReceivedUnderAnyInterleaving : Prop :=
  ∀ (s : State) (p : Payload) (rest : List Byte) (es : List Event), (s.dec.ds = .hunt0 ∨ s.dec.ds = .hunt1) →
    s.rx = encodeFrame p ++ rest →
    (∀ e ∈ es, e = .op .rxByte ∨ eventWrites writesDecoder true e = false) →
    es.count (.op .rxByte) = (encodeFrame p).length →
    ∃ t, play es s = .next t ∧ t.dec.ds = .hunt0 ∧ t.delivered = s.delivered ++ [p] ∧
      t.act.dl = some (numRnd s.cfg.numFmt ((sint8 p.b0 : Value) / 127)) ∧
      t.act.dr = some (numRnd s.cfg.numFmt ((sint8 p.b1 : Value) / 127)) ∧
      t.act.ah = some (numRnd s.cfg.numFmt ((sint8 p.b2 : Value) / 127)) ∧
      t.act.av = some (numRnd s.cfg.numFmt ((sint8 p.b3 : Value) / 127)) ∧
      t.act.gpTgt = if p.b4 = 0 then s.cfg.posOpened else s.cfg.posClosed

/-- R138: noise without adjacent 10 02 does not hide a frame (from HUNT1: `10` followed by the noise has none); and the
counter-example to the unrestricted form delivers nothing. -/
def Obligations.NoiseWithoutStartHidesNoFrame : Prop :=
  (∀ (d : Decoder) (noise : List Byte) (p : Payload), d.ds = .hunt0 → ¬ [0x10#8, 0x02#8] <:+: noise →
    (decRun d (noise ++ encodeFrame p)).2 = [p] ∧ (decRun d (noise ++ encodeFrame p)).1.ds = .hunt0) ∧
  (∀ (d : Decoder) (noise : List Byte) (p : Payload), d.ds = .hunt1 → ¬ [0x10#8, 0x02#8] <:+: (0x10#8 :: noise) →
    (decRun d (noise ++ encodeFrame p)).2 = [p] ∧ (decRun d (noise ++ encodeFrame p)).1.ds = .hunt0) ∧
  (∀ d : Decoder, d.ds = .hunt0 → (decRun d ([0x10#8, 0x02#8] ++ encodeFrame ⟨0, 0, 0, 0, 0⟩)).2 = [])

/-- R139: never malformed. Whatever the stream, a payload that a decoder delivers after starting in hunt stood in the
stream as a whole frame. -/
def Obligations.DeliveredPayloadStoodInTheStream : Prop :=
  ∀ (d : Decoder) (w : List Byte) (p : Payload), d.ds = .hunt0 → p ∈ (decRun d w).2 → encodeFrame p <:+: w

/-- R142: on a clean stream, from ANY decoder state, every frame is received from the second at the latest (from the
first when the decoder hunts), nothing else is delivered, and the decoder is in HUNT0 after every frame. -/
def Obligations.CleanStreamRecoversByTheSecondFrame : Prop :=
  ∀ (d : Decoder) (ps : List Payload),
    ((d.ds = .hunt0 ∨ d.ds = .hunt1) → (decRun d (ps.flatMap encodeFrame)).2 = ps) ∧
    (¬ (d.ds = .hunt0 ∨ d.ds = .hunt1) → (decRun d (ps.flatMap encodeFrame)).2 = ps.tail) ∧
    (ps ≠ [] → (decRun d (ps.flatMap encodeFrame)).1.ds = .hunt0)

/-- R39, R24: the scratch registers that RESET leaves unspecified are unobservable. Two states with the decoder in
HUNT0 and the encoder idle that differ in them only, run under the same schedule, never differ in what is delivered,
sent or applied, nor in the sequencers. -/
def Obligations.ScratchRegistersAreUnobservable : Prop :=
  ∀ (s s' : State) (es : List Event), agreeButScratch s s' → s.dec.ds = .hunt0 → s.enc.es = .idle →
    ∃ t t', play es s = .next t ∧ play es s' = .next t' ∧ agreeButScratch t t'

/-! ## The encoder -/

/-- R104: `ENC_START` loads an idle encoder and has no effect on a busy one (the latter is the spec's decision D10,
log 17). -/
def Obligations.EncStartLoadsAnIdleEncoder : Prop :=
  ∀ (s : State) (p : Payload),
    (s.enc.es = .idle → exec (.encStart p) s = .next { s with enc := { es := .sm0, eidx := 0, epb := p } }) ∧
    (s.enc.es ≠ .idle → exec (.encStart p) s = .next s)

/-- R106, R107, R109 to R111 with R108: what each `TX_BYTE` pushes and where `ES` goes. -/
def Obligations.TxByteSendsByItsState : Prop :=
  ∀ s : State,
    (s.enc.es = .sm0 → exec .txByte s = .next { s with tx := s.tx ++ [0x10#8], enc := { s.enc with es := .sm1 } }) ∧
    (s.enc.es = .sm1 →
      exec .txByte s = .next { s with tx := s.tx ++ [0x02#8], enc := { s.enc with es := .dat, eidx := 0 } }) ∧
    (s.enc.es = .dat → s.enc.epb.get s.enc.eidx = 0x10#8 →
      exec .txByte s = .next { s with tx := s.tx ++ [0x10#8], enc := { s.enc with es := .dup } }) ∧
    (s.enc.es = .dat → s.enc.epb.get s.enc.eidx ≠ 0x10#8 → ∃ e,
      exec .txByte s = .next { s with tx := s.tx ++ [s.enc.epb.get s.enc.eidx], enc := e } ∧
      e.epb = s.enc.epb ∧ (s.enc.eidx.val = 4 → e.es = .em0 ∧ e.eidx = s.enc.eidx) ∧
      (s.enc.eidx.val < 4 → e.es = .dat ∧ e.eidx.val = s.enc.eidx.val + 1)) ∧
    (s.enc.es = .dup → ∃ e,
      exec .txByte s = .next { s with tx := s.tx ++ [0x10#8], enc := e } ∧
      e.epb = s.enc.epb ∧ (s.enc.eidx.val = 4 → e.es = .em0 ∧ e.eidx = s.enc.eidx) ∧
      (s.enc.eidx.val < 4 → e.es = .dat ∧ e.eidx.val = s.enc.eidx.val + 1)) ∧
    (s.enc.es = .em0 → exec .txByte s = .next { s with tx := s.tx ++ [0x10#8], enc := { s.enc with es := .em1 } }) ∧
    (s.enc.es = .em1 → exec .txByte s = .next { s with tx := s.tx ++ [0x03#8], enc := { s.enc with es := .idle } })

/-- The rules of `TX_BYTE` agree with the transition table of R112 (`encStep`), which has a row for every busy state. -/
def Obligations.TxByteFollowsTheTransitionTable : Prop :=
  ∀ s : State, s.enc.es ≠ .idle → ∃ b e, encStep s.enc = some (b, e) ∧
    exec .txByte s = .next { s with tx := s.tx ++ [b], enc := e }

/-- R113, under every interleaving with the other agents: after `ENC_START(P)` on an idle encoder, `len(encode(P))`
`TX_BYTE` operations append exactly `encode(P)` and end in IDLE, and with fewer the encoder is still busy. -/
def Obligations.FrameIsSentUnderAnyInterleaving : Prop :=
  ∀ (s : State) (p : Payload) (es : List Event), s.enc.es = .idle →
    (∀ e ∈ es, e = .op .txByte ∨ eventWrites writesEncoder false e = false) →
    ∃ t, play (.op (.encStart p) :: es) s = .next t ∧
      (es.count (.op .txByte) = (encodeFrame p).length → t.tx = s.tx ++ encodeFrame p ∧ t.enc.es = .idle) ∧
      (es.count (.op .txByte) < (encodeFrame p).length →
        t.tx = s.tx ++ (encodeFrame p).take (es.count (.op .txByte)) ∧ t.enc.es ≠ .idle)

/-- R101: a frame is `9 + e` bytes long, e the number of payload bytes equal to 0x10. -/
def Obligations.FrameLengthCountsTheEscapes : Prop :=
  ∀ p : Payload, (encodeFrame p).length = 9 + p.bytes.count 0x10#8 ∧
    9 ≤ (encodeFrame p).length ∧ (encodeFrame p).length ≤ 14

/-- R100: `encode` is injective; no frame is even the beginning of another frame's stream. -/
def Obligations.FramesAreUniquelyReadable : Prop :=
  ∀ (p q : Payload) (u v : List Byte), encodeFrame p ++ u = encodeFrame q ++ v → p = q ∧ u = v

/-! ## The packet translator -/

/-- R150, R151, R153: four signed bytes divided by 127 and passed through `NUM_RND`, and the last byte tested against
zero. -/
def Obligations.ToLogicalDividesBy127 : Prop :=
  ∀ (rnd : Value → Value) (p : Payload),
    toLogical rnd p =
      { left := rnd ((p.b0.toInt : Value) / 127), right := rnd ((p.b1.toInt : Value) / 127)
        h := rnd ((p.b2.toInt : Value) / 127), v := rnd ((p.b3.toInt : Value) / 127), grab := decide (p.b4 ≠ 0) }

/-- R152: with `NUM_RND` the identity an axis value lies in -128/127 to 1, and only the byte 0x80 goes below -1: no
clamping (the spec's own decision D4, log 15). -/
def Obligations.AxisIsNotClamped : Prop :=
  (∀ b : Byte, -128 / 127 ≤ axis (numRnd .rational) (sint8 b) ∧ axis (numRnd .rational) (sint8 b) ≤ 1 ∧
    (axis (numRnd .rational) (sint8 b) < -1 ↔ b = 0x80#8)) ∧
  axis (numRnd .rational) (sint8 0x80#8) = -128 / 127

/-- R162: monotonic, odd, and zero at zero. -/
def Obligations.AxisIsMonotonic : Prop :=
  (∀ k l : Int, k < l → axis (numRnd .rational) k < axis (numRnd .rational) l) ∧
  (∀ rnd : Value → Value, (∀ x y, x ≤ y → rnd x ≤ rnd y) → ∀ k l : Int, k < l → axis rnd k ≤ axis rnd l) ∧
  axis (numRnd .rational) 0 = 0 ∧
  (∀ k : Int, axis (numRnd .rational) (-k) = -axis (numRnd .rational) k)

/-- R157: nearest integer, ties away from zero (the spec's own decision D5, log 15), saturating at the signed 8-bit range. -/
def Obligations.UnaxisRoundsThenSaturates : Prop :=
  (∀ x : Value, -128 / 127 ≤ x → x ≤ 1 → |(unaxis x : Value) - x * 127| ≤ 1 / 2) ∧
  (∀ m : Int, 0 ≤ m → m ≤ 126 → unaxis ((2 * m + 1) / 254) = m + 1) ∧
  (∀ m : Int, 0 ≤ m → m ≤ 127 → unaxis (-((2 * m + 1) / 254)) = -(m + 1)) ∧
  (∀ x : Value, 1 ≤ x → unaxis x = 127) ∧
  (∀ x : Value, x ≤ -128 / 127 → unaxis x = -128)

/-- R155: `toWire` writes each axis as the byte whose two's-complement value is `unaxis` of it (R157 says which integer that
is), and the Flag as `unflag` of it. The integer always fits, so no axis wraps. -/
def Obligations.ToWireWritesEachField : Prop :=
  ∀ cmd : ControlCommand,
    (toWire cmd).b0.toInt = unaxis cmd.left ∧ (toWire cmd).b1.toInt = unaxis cmd.right ∧
    (toWire cmd).b2.toInt = unaxis cmd.h ∧ (toWire cmd).b3.toInt = unaxis cmd.v ∧
    (toWire cmd).b4 = unflag cmd.grab

/-- R160: record to command to record gives back the four axis bytes, and the gripper byte as 0 or 1, for the identity
and for every rounding function that stays within half a step. -/
def Obligations.RecordSurvivesTheRoundTrip : Prop :=
  (∀ (rnd : Value → Value) (p : Payload),
    (∀ k : Int, -128 ≤ k → k ≤ 127 → |rnd ((k : Value) / 127) * 127 - k| < 1 / 2) →
    toWire (toLogical rnd p) = { p with b4 := if p.b4 = 0 then 0 else 1 }) ∧
  (∀ p : Payload, (p.b4 = 0 ∨ p.b4 = 1) → toWire (toLogical (numRnd .rational) p) = p)

/-- R161: command to record to command is off by at most 1/254 on the interval -1 to 1; outside it the clamp breaks the
bound (2 comes back as 1); the Flag is exact. -/
def Obligations.QuantisationErrorIsBounded : Prop :=
  (∀ x : Value, -1 ≤ x → x ≤ 1 → |axis (numRnd .rational) (unaxis x) - x| ≤ 1 / 254) ∧
  axis (numRnd .rational) (unaxis 2) = 1 ∧ (∀ f : Bool, flag (uint8 (unflag f)) = f)

/-- R158 and R159: `APPLY` writes the four levels and the target together and nothing else; it is not enabled on its own
(the host cannot invoke it). -/
def Obligations.ApplyWritesTheFiveRegisters : Prop :=
  ∀ (s : State) (cmd : ControlCommand),
    exec (.applyCmd cmd) s =
      .next
        { s with
          act :=
            { s.act with
              dl := some cmd.left, dr := some cmd.right, ah := some cmd.h, av := some cmd.v
              gpTgt := if cmd.grab = true then s.cfg.posClosed else s.cfg.posOpened } } ∧
    enabled (.applyCmd cmd) s = false

/-- The pure functions change no state of the block (R88): `encode`, `toLogical` and `toWire` complete in every state and
leave everything but the model's record of the returned value (log 9) as it was. The record row, which R88 does not list,
is by the model's reading (log 13) a call of `toLogical` on the record, and does the same. The value of
`encode` is R100 written out; those of the others are `toLogical` (R150) and `toWire` (R155). -/
def Obligations.PureFunctionsReturnTheirValue : Prop :=
  ∀ (s : State) (p : Payload) (cmd : ControlCommand),
    exec (.encode p) s =
      .next
        { s with
          result :=
            .frame
              ([0x10#8, 0x02#8] ++ stuff p.b0 ++ stuff p.b1 ++ stuff p.b2 ++ stuff p.b3 ++ stuff p.b4 ++ [0x10#8, 0x03#8]) } ∧
    exec (.toLogical p) s = .next { s with result := .command (toLogical (numRnd s.cfg.numFmt) p) } ∧
    exec (.toWire cmd) s = .next { s with result := .record (toWire cmd) } ∧
    exec (.wireRecord (sint8 p.b0) (sint8 p.b1) (sint8 p.b2) (sint8 p.b3) (uint8 p.b4)) s =
      .next { s with result := .command (toLogical (numRnd s.cfg.numFmt) p) }

/-- R76, R77: the record row runs on its field values, whatever they are: each signed field divided by 127, the gripper
field tested against zero (the returned value is kept in `result`, log 9). -/
def Obligations.WireRecordTranslatesItsFields : Prop :=
  ∀ (s : State) (l r h v : Int) (g : Nat),
    exec (.wireRecord l r h v g) s =
      .next
        { s with
          result :=
            .command
              { left := numRnd s.cfg.numFmt ((l : Value) / 127), right := numRnd s.cfg.numFmt ((r : Value) / 127)
                h := numRnd s.cfg.numFmt ((h : Value) / 127), v := numRnd s.cfg.numFmt ((v : Value) / 127)
                grab := decide (g ≠ 0) } }

/-! ## The smoothing register -/

/-- R171: an enabled `TICK` writes `GP_CUR` only, one quarter of the way to the target through `NUM_RND`; with the
identity that is `(3 GP_CUR + GP_TGT)/4`. -/
def Obligations.TickMovesOneQuarter : Prop :=
  ∀ s : State, s.act.tickEn = true →
    exec .tick s =
      .next
        { s with
          act := { s.act with gpCur := numRnd s.cfg.numFmt (s.act.gpCur + (s.act.gpTgt - s.act.gpCur) / 4) } } ∧
    (s.cfg.numFmt = .rational →
      exec .tick s = .next { s with act := { s.act with gpCur := (3 * s.act.gpCur + s.act.gpTgt) / 4 } })

/-- R174, R175: `START` sets and `STOP` clears `TICK_EN`, and nothing else is written. That they do so whatever its value is
the spec's own decision D14. -/
def Obligations.StartAndStopWriteOnlyTickEn : Prop :=
  ∀ s : State, exec .start s = .next { s with act := { s.act with tickEn := true } } ∧
    exec .stop s = .next { s with act := { s.act with tickEn := false } }

/-- Stopping is synchronous (43_smoothing.md section 2; scheduled ticks that are not enabled are passed over, log 2). After `STOP`, and whatever happens other than `START` and `RESET`, the tick stays
inactive and the position stays where it was. -/
def Obligations.NoTickAfterStop : Prop :=
  ∀ (s : State) (es : List Event), (∀ e ∈ es, e ≠ .op .start ∧ e ≠ .op .reset) →
    ∃ t, play (.op .stop :: es) s = .next t ∧ t.act.tickEn = false ∧ t.act.gpCur = s.act.gpCur

/-- R177: the closed form. With `NUM_RND` the identity, after n ticks toward a target that stays fixed,
`GP_CUR = t - (t - p0)(3/4)^n`, whatever else happened in between. -/
def Obligations.GripperFollowsTheClosedForm : Prop :=
  ∀ (n : Nat) (s t : State), s.cfg.numFmt = .rational → EasingRun n s t →
    t.act.gpCur = s.act.gpTgt - (s.act.gpTgt - s.act.gpCur) * (3 / 4) ^ n

/-- R178: convergence with `NUM_RND` the identity: the distance shrinks by 3/4 a tick, strictly decreases and tends to 0
but never reaches it unless the gripper was at the target, where it stays; and the approach never overshoots. -/
def Obligations.GripperConvergesWithoutOvershoot : Prop :=
  ∀ (p0 t : Value) (p : Nat → Value), p 0 = p0 → (∀ n, p (n + 1) = easeStep (numRnd .rational) (p n) t) →
    (∀ n, |p n - t| = |p0 - t| * (3 / 4) ^ n) ∧
    (p0 ≠ t → (∀ n, |p (n + 1) - t| < |p n - t| ∧ p n ≠ t) ∧
      ∀ ε : Value, 0 < ε → ∃ m, ∀ n, m ≤ n → |p n - t| < ε) ∧
    (p0 = t → ∀ n, p n = t) ∧
    (∀ n, p n ≠ t → min (p n) t < p (n + 1) ∧ p (n + 1) < max (p n) t)

/-! ## Infinite executions -/

/-- R12: an execution may be infinite, where the schedule in State is finite (log 1). The two agree: running the first `n`
events of a course as a schedule leads to the course's state at moment `n`, with the schedule used up. -/
def Obligations.InfiniteExecutionsExtendRuns : Prop :=
  ∀ (c : Course) (s : State) (n : Nat), play (c.upTo n) s = .next ((stateAt c s n).setSched [])

/-- R170's fairness assumption at work (with R171): with `NUM_RND` the identity, in every infinite execution that is fair
to the tick and in which from some moment on `TICK_EN` stays 1 and the target stays `t`, the gripper comes and stays as
near to `t` as one likes, whatever the other agents do. -/
def Obligations.FairTicksBringTheGripperToItsTarget : Prop :=
  ∀ (c : Course) (s : State) (n : Nat) (t : Value), s.cfg.numFmt = .rational → TickFair c s →
    (∀ m, n ≤ m → (stateAt c s m).act.tickEn = true ∧ (stateAt c s m).act.gpTgt = t) →
    ∀ ε : Value, 0 < ε → ∃ m₀, ∀ m, m₀ ≤ m → |(stateAt c s m).act.gpCur - t| < ε

/-! ## Reset and clock edges -/

/-- R220: what RESET writes, what it does not touch, and what is taken as empty (the values are the spec's decision D12,
log 18). That `tx` is empty afterwards, the bytes already pushed being kept in `txPrior`, is the model's reading of R220
beside R221 b (log 6). -/
def Obligations.ResetRestoresTheResetValues : Prop :=
  ∀ s : State, ∃ t, exec .reset s = .next t ∧ t.dec.ds = .hunt0 ∧ t.enc.es = .idle ∧ t.act.tickEn = false ∧
    t.act.gpCur = s.cfg.posOpened ∧ t.act.gpTgt = s.cfg.posOpened ∧
    t.act.dl = none ∧ t.act.dr = none ∧ t.act.ah = none ∧ t.act.av = none ∧
    t.rx = s.rx ∧ t.tx = [] ∧ t.delivered = []

/-- What RESET leaves of the model's own fields (logs 1, 5, 6, 9): the bytes already sent stay sent (R221 b), the run's
constants, the schedule and the returned value are kept, and each RESET draws fresh free values. -/
def Obligations.ResetKeepsWhatWasSent : Prop :=
  ∀ s : State, ∃ t, exec .reset s = .next t ∧ wireOut t = wireOut s ∧ t.cfg = s.cfg ∧ t.sched = s.sched ∧
    t.result = s.result ∧ t.freeCount = s.freeCount + 1

/-- R222: the state after reset, in the words of the rule (the values are the spec's decision D12, log 18). -/
def Obligations.ResetStateIsAtRest : Prop :=
  State.reset.dec.ds = .hunt0 ∧ State.reset.enc.es = .idle ∧
  State.reset.act.gpCur = State.reset.cfg.posOpened ∧ State.reset.act.gpTgt = State.reset.cfg.posOpened ∧
  State.reset.act.dl = none ∧ State.reset.act.dr = none ∧ State.reset.act.ah = none ∧ State.reset.act.av = none ∧
  State.reset.act.tickEn = false

/-- R198, D15 (log 22): on one clock edge a TICK uses the old `GP_TGT` although an accept falls on the same edge, and
still happens although a STOP does; a RESET overrides everything else. -/
def Obligations.ClockEdgeReadsTheOldTarget : Prop :=
  (∀ (s : State) (rest : List Byte), s.sched = [] → s.act.tickEn = true → s.dec.ds = .end2 → s.dec.e1ok = true →
    s.rx = 0x03#8 :: rest →
    ∃ t, clockEdge { tick := true, rx := true, encoder := none, control := some .stop, reset := false } s = .next t ∧
      t.act.gpCur = numRnd s.cfg.numFmt (s.act.gpCur + (s.act.gpTgt - s.act.gpCur) / 4) ∧
      t.act.gpTgt = (if s.dec.pb.b4 = 0 then s.cfg.posOpened else s.cfg.posClosed) ∧
      t.act.tickEn = false ∧ t.delivered = s.delivered ++ [s.dec.pb]) ∧
  (∀ (e : Edge) (s : State), e.reset = true → clockEdge e s = exec .reset (s.setSched []))
end

