-- ==== Sys2Proof/Laws/State.lean ====
section
/-! SUPPORT. One lemma per field per update of State: later proofs cite these and unfold no record update. -/

namespace Sys2Proof.Machine

variable (s : State)

@[simp] theorem State.setDec_dec (x : Decoder) : (s.setDec x).dec = x := rfl
@[simp] theorem State.setDec_enc (x : Decoder) : (s.setDec x).enc = s.enc := rfl
@[simp] theorem State.setDec_act (x : Decoder) : (s.setDec x).act = s.act := rfl
@[simp] theorem State.setDec_rx (x : Decoder) : (s.setDec x).rx = s.rx := rfl
@[simp] theorem State.setDec_tx (x : Decoder) : (s.setDec x).tx = s.tx := rfl
@[simp] theorem State.setDec_txPrior (x : Decoder) : (s.setDec x).txPrior = s.txPrior := rfl
@[simp] theorem State.setDec_delivered (x : Decoder) : (s.setDec x).delivered = s.delivered := rfl
@[simp] theorem State.setDec_result (x : Decoder) : (s.setDec x).result = s.result := rfl
@[simp] theorem State.setDec_sched (x : Decoder) : (s.setDec x).sched = s.sched := rfl
@[simp] theorem State.setDec_freeCount (x : Decoder) : (s.setDec x).freeCount = s.freeCount := rfl
@[simp] theorem State.setDec_cfg (x : Decoder) : (s.setDec x).cfg = s.cfg := rfl
@[simp] theorem State.setDec_self : s.setDec s.dec = s := rfl
@[simp] theorem State.setDec_setDec (x y : Decoder) : (s.setDec x).setDec y = s.setDec y := rfl

@[simp] theorem State.setEnc_dec (x : Encoder) : (s.setEnc x).dec = s.dec := rfl
@[simp] theorem State.setEnc_enc (x : Encoder) : (s.setEnc x).enc = x := rfl
@[simp] theorem State.setEnc_act (x : Encoder) : (s.setEnc x).act = s.act := rfl
@[simp] theorem State.setEnc_rx (x : Encoder) : (s.setEnc x).rx = s.rx := rfl
@[simp] theorem State.setEnc_tx (x : Encoder) : (s.setEnc x).tx = s.tx := rfl
@[simp] theorem State.setEnc_txPrior (x : Encoder) : (s.setEnc x).txPrior = s.txPrior := rfl
@[simp] theorem State.setEnc_delivered (x : Encoder) : (s.setEnc x).delivered = s.delivered := rfl
@[simp] theorem State.setEnc_result (x : Encoder) : (s.setEnc x).result = s.result := rfl
@[simp] theorem State.setEnc_sched (x : Encoder) : (s.setEnc x).sched = s.sched := rfl
@[simp] theorem State.setEnc_freeCount (x : Encoder) : (s.setEnc x).freeCount = s.freeCount := rfl
@[simp] theorem State.setEnc_cfg (x : Encoder) : (s.setEnc x).cfg = s.cfg := rfl
@[simp] theorem State.setEnc_self : s.setEnc s.enc = s := rfl
@[simp] theorem State.setEnc_setEnc (x y : Encoder) : (s.setEnc x).setEnc y = s.setEnc y := rfl

@[simp] theorem State.setAct_dec (x : Actuators) : (s.setAct x).dec = s.dec := rfl
@[simp] theorem State.setAct_enc (x : Actuators) : (s.setAct x).enc = s.enc := rfl
@[simp] theorem State.setAct_act (x : Actuators) : (s.setAct x).act = x := rfl
@[simp] theorem State.setAct_rx (x : Actuators) : (s.setAct x).rx = s.rx := rfl
@[simp] theorem State.setAct_tx (x : Actuators) : (s.setAct x).tx = s.tx := rfl
@[simp] theorem State.setAct_txPrior (x : Actuators) : (s.setAct x).txPrior = s.txPrior := rfl
@[simp] theorem State.setAct_delivered (x : Actuators) : (s.setAct x).delivered = s.delivered := rfl
@[simp] theorem State.setAct_result (x : Actuators) : (s.setAct x).result = s.result := rfl
@[simp] theorem State.setAct_sched (x : Actuators) : (s.setAct x).sched = s.sched := rfl
@[simp] theorem State.setAct_freeCount (x : Actuators) : (s.setAct x).freeCount = s.freeCount := rfl
@[simp] theorem State.setAct_cfg (x : Actuators) : (s.setAct x).cfg = s.cfg := rfl
@[simp] theorem State.setAct_self : s.setAct s.act = s := rfl
@[simp] theorem State.setAct_setAct (x y : Actuators) : (s.setAct x).setAct y = s.setAct y := rfl

@[simp] theorem State.setRx_dec (x : List Byte) : (s.setRx x).dec = s.dec := rfl
@[simp] theorem State.setRx_enc (x : List Byte) : (s.setRx x).enc = s.enc := rfl
@[simp] theorem State.setRx_act (x : List Byte) : (s.setRx x).act = s.act := rfl
@[simp] theorem State.setRx_rx (x : List Byte) : (s.setRx x).rx = x := rfl
@[simp] theorem State.setRx_tx (x : List Byte) : (s.setRx x).tx = s.tx := rfl
@[simp] theorem State.setRx_txPrior (x : List Byte) : (s.setRx x).txPrior = s.txPrior := rfl
@[simp] theorem State.setRx_delivered (x : List Byte) : (s.setRx x).delivered = s.delivered := rfl
@[simp] theorem State.setRx_result (x : List Byte) : (s.setRx x).result = s.result := rfl
@[simp] theorem State.setRx_sched (x : List Byte) : (s.setRx x).sched = s.sched := rfl
@[simp] theorem State.setRx_freeCount (x : List Byte) : (s.setRx x).freeCount = s.freeCount := rfl
@[simp] theorem State.setRx_cfg (x : List Byte) : (s.setRx x).cfg = s.cfg := rfl
@[simp] theorem State.setRx_self : s.setRx s.rx = s := rfl
@[simp] theorem State.setRx_setRx (x y : List Byte) : (s.setRx x).setRx y = s.setRx y := rfl

@[simp] theorem State.setTx_dec (x : List Byte) : (s.setTx x).dec = s.dec := rfl
@[simp] theorem State.setTx_enc (x : List Byte) : (s.setTx x).enc = s.enc := rfl
@[simp] theorem State.setTx_act (x : List Byte) : (s.setTx x).act = s.act := rfl
@[simp] theorem State.setTx_rx (x : List Byte) : (s.setTx x).rx = s.rx := rfl
@[simp] theorem State.setTx_tx (x : List Byte) : (s.setTx x).tx = x := rfl
@[simp] theorem State.setTx_txPrior (x : List Byte) : (s.setTx x).txPrior = s.txPrior := rfl
@[simp] theorem State.setTx_delivered (x : List Byte) : (s.setTx x).delivered = s.delivered := rfl
@[simp] theorem State.setTx_result (x : List Byte) : (s.setTx x).result = s.result := rfl
@[simp] theorem State.setTx_sched (x : List Byte) : (s.setTx x).sched = s.sched := rfl
@[simp] theorem State.setTx_freeCount (x : List Byte) : (s.setTx x).freeCount = s.freeCount := rfl
@[simp] theorem State.setTx_cfg (x : List Byte) : (s.setTx x).cfg = s.cfg := rfl
@[simp] theorem State.setTx_self : s.setTx s.tx = s := rfl
@[simp] theorem State.setTx_setTx (x y : List Byte) : (s.setTx x).setTx y = s.setTx y := rfl

@[simp] theorem State.setTxPrior_dec (x : List Byte) : (s.setTxPrior x).dec = s.dec := rfl
@[simp] theorem State.setTxPrior_enc (x : List Byte) : (s.setTxPrior x).enc = s.enc := rfl
@[simp] theorem State.setTxPrior_act (x : List Byte) : (s.setTxPrior x).act = s.act := rfl
@[simp] theorem State.setTxPrior_rx (x : List Byte) : (s.setTxPrior x).rx = s.rx := rfl
@[simp] theorem State.setTxPrior_tx (x : List Byte) : (s.setTxPrior x).tx = s.tx := rfl
@[simp] theorem State.setTxPrior_txPrior (x : List Byte) : (s.setTxPrior x).txPrior = x := rfl
@[simp] theorem State.setTxPrior_delivered (x : List Byte) : (s.setTxPrior x).delivered = s.delivered := rfl
@[simp] theorem State.setTxPrior_result (x : List Byte) : (s.setTxPrior x).result = s.result := rfl
@[simp] theorem State.setTxPrior_sched (x : List Byte) : (s.setTxPrior x).sched = s.sched := rfl
@[simp] theorem State.setTxPrior_freeCount (x : List Byte) : (s.setTxPrior x).freeCount = s.freeCount := rfl
@[simp] theorem State.setTxPrior_cfg (x : List Byte) : (s.setTxPrior x).cfg = s.cfg := rfl
@[simp] theorem State.setTxPrior_self : s.setTxPrior s.txPrior = s := rfl
@[simp] theorem State.setTxPrior_setTxPrior (x y : List Byte) : (s.setTxPrior x).setTxPrior y = s.setTxPrior y := rfl

@[simp] theorem State.setDelivered_dec (x : List Payload) : (s.setDelivered x).dec = s.dec := rfl
@[simp] theorem State.setDelivered_enc (x : List Payload) : (s.setDelivered x).enc = s.enc := rfl
@[simp] theorem State.setDelivered_act (x : List Payload) : (s.setDelivered x).act = s.act := rfl
@[simp] theorem State.setDelivered_rx (x : List Payload) : (s.setDelivered x).rx = s.rx := rfl
@[simp] theorem State.setDelivered_tx (x : List Payload) : (s.setDelivered x).tx = s.tx := rfl
@[simp] theorem State.setDelivered_txPrior (x : List Payload) : (s.setDelivered x).txPrior = s.txPrior := rfl
@[simp] theorem State.setDelivered_delivered (x : List Payload) : (s.setDelivered x).delivered = x := rfl
@[simp] theorem State.setDelivered_result (x : List Payload) : (s.setDelivered x).result = s.result := rfl
@[simp] theorem State.setDelivered_sched (x : List Payload) : (s.setDelivered x).sched = s.sched := rfl
@[simp] theorem State.setDelivered_freeCount (x : List Payload) : (s.setDelivered x).freeCount = s.freeCount := rfl
@[simp] theorem State.setDelivered_cfg (x : List Payload) : (s.setDelivered x).cfg = s.cfg := rfl
@[simp] theorem State.setDelivered_self : s.setDelivered s.delivered = s := rfl
@[simp] theorem State.setDelivered_setDelivered (x y : List Payload) : (s.setDelivered x).setDelivered y = s.setDelivered y := rfl

@[simp] theorem State.setResult_dec (x : CallResult) : (s.setResult x).dec = s.dec := rfl
@[simp] theorem State.setResult_enc (x : CallResult) : (s.setResult x).enc = s.enc := rfl
@[simp] theorem State.setResult_act (x : CallResult) : (s.setResult x).act = s.act := rfl
@[simp] theorem State.setResult_rx (x : CallResult) : (s.setResult x).rx = s.rx := rfl
@[simp] theorem State.setResult_tx (x : CallResult) : (s.setResult x).tx = s.tx := rfl
@[simp] theorem State.setResult_txPrior (x : CallResult) : (s.setResult x).txPrior = s.txPrior := rfl
@[simp] theorem State.setResult_delivered (x : CallResult) : (s.setResult x).delivered = s.delivered := rfl
@[simp] theorem State.setResult_result (x : CallResult) : (s.setResult x).result = x := rfl
@[simp] theorem State.setResult_sched (x : CallResult) : (s.setResult x).sched = s.sched := rfl
@[simp] theorem State.setResult_freeCount (x : CallResult) : (s.setResult x).freeCount = s.freeCount := rfl
@[simp] theorem State.setResult_cfg (x : CallResult) : (s.setResult x).cfg = s.cfg := rfl
@[simp] theorem State.setResult_self : s.setResult s.result = s := rfl
@[simp] theorem State.setResult_setResult (x y : CallResult) : (s.setResult x).setResult y = s.setResult y := rfl

@[simp] theorem State.setSched_dec (x : List Event) : (s.setSched x).dec = s.dec := rfl
@[simp] theorem State.setSched_enc (x : List Event) : (s.setSched x).enc = s.enc := rfl
@[simp] theorem State.setSched_act (x : List Event) : (s.setSched x).act = s.act := rfl
@[simp] theorem State.setSched_rx (x : List Event) : (s.setSched x).rx = s.rx := rfl
@[simp] theorem State.setSched_tx (x : List Event) : (s.setSched x).tx = s.tx := rfl
@[simp] theorem State.setSched_txPrior (x : List Event) : (s.setSched x).txPrior = s.txPrior := rfl
@[simp] theorem State.setSched_delivered (x : List Event) : (s.setSched x).delivered = s.delivered := rfl
@[simp] theorem State.setSched_result (x : List Event) : (s.setSched x).result = s.result := rfl
@[simp] theorem State.setSched_sched (x : List Event) : (s.setSched x).sched = x := rfl
@[simp] theorem State.setSched_freeCount (x : List Event) : (s.setSched x).freeCount = s.freeCount := rfl
@[simp] theorem State.setSched_cfg (x : List Event) : (s.setSched x).cfg = s.cfg := rfl
@[simp] theorem State.setSched_self : s.setSched s.sched = s := rfl
@[simp] theorem State.setSched_setSched (x y : List Event) : (s.setSched x).setSched y = s.setSched y := rfl

@[simp] theorem State.setFreeCount_dec (x : Nat) : (s.setFreeCount x).dec = s.dec := rfl
@[simp] theorem State.setFreeCount_enc (x : Nat) : (s.setFreeCount x).enc = s.enc := rfl
@[simp] theorem State.setFreeCount_act (x : Nat) : (s.setFreeCount x).act = s.act := rfl
@[simp] theorem State.setFreeCount_rx (x : Nat) : (s.setFreeCount x).rx = s.rx := rfl
@[simp] theorem State.setFreeCount_tx (x : Nat) : (s.setFreeCount x).tx = s.tx := rfl
@[simp] theorem State.setFreeCount_txPrior (x : Nat) : (s.setFreeCount x).txPrior = s.txPrior := rfl
@[simp] theorem State.setFreeCount_delivered (x : Nat) : (s.setFreeCount x).delivered = s.delivered := rfl
@[simp] theorem State.setFreeCount_result (x : Nat) : (s.setFreeCount x).result = s.result := rfl
@[simp] theorem State.setFreeCount_sched (x : Nat) : (s.setFreeCount x).sched = s.sched := rfl
@[simp] theorem State.setFreeCount_freeCount (x : Nat) : (s.setFreeCount x).freeCount = x := rfl
@[simp] theorem State.setFreeCount_cfg (x : Nat) : (s.setFreeCount x).cfg = s.cfg := rfl
@[simp] theorem State.setFreeCount_self : s.setFreeCount s.freeCount = s := rfl
@[simp] theorem State.setFreeCount_setFreeCount (x y : Nat) : (s.setFreeCount x).setFreeCount y = s.setFreeCount y := rfl

/-- Two states with equal fields are equal. -/
theorem State.ext_fields {s t : State} (hdec : s.dec = t.dec) (henc : s.enc = t.enc) (hact : s.act = t.act)
    (hrx : s.rx = t.rx) (htx : s.tx = t.tx) (hprior : s.txPrior = t.txPrior) (hdel : s.delivered = t.delivered)
    (hres : s.result = t.result) (hsched : s.sched = t.sched) (hfree : s.freeCount = t.freeCount)
    (hcfg : s.cfg = t.cfg) : s = t := by
  cases s; cases t; simp_all

end Sys2Proof.Machine
end

