-- ==== Sys2Proof/Laws/Ops.lean ====
section
/-! SUPPORT. What the shared operations can do, said once: payload elements, the row combinator of the opcode map,
and the effect of one received byte. -/

namespace Sys2Proof

@[simp] theorem Config.escByte_eq : Config.escByte = 0x10#8 := rfl
@[simp] theorem Config.startByte_eq : Config.startByte = 0x02#8 := rfl
@[simp] theorem Config.endByte_eq : Config.endByte = 0x03#8 := rfl
@[simp] theorem Config.scale_eq : Config.scale = 127 := rfl
@[simp] theorem Config.easeDiv_eq : Config.easeDiv = 4 := rfl

theorem Payload.get_set_self (p : Payload) (i : Fin 5) (c : Byte) : (p.set i c).get i = c := by
  match i with
  | 0 => rfl
  | 1 => rfl
  | 2 => rfl
  | 3 => rfl
  | 4 => rfl

theorem Payload.get_set_other (p : Payload) {i j : Fin 5} (c : Byte) (h : j ≠ i) : (p.set i c).get j = p.get j := by
  fin_cases i <;> fin_cases j <;> first | rfl | exact absurd rfl h

theorem Payload.ext_get {p q : Payload} (h : ∀ i, p.get i = q.get i) : p = q := by
  have h0 := h 0; have h1 := h 1; have h2 := h 2; have h3 := h 3; have h4 := h 4
  cases p; cases q
  simp only [Payload.get] at h0 h1 h2 h3 h4
  simp [h0, h1, h2, h3, h4]

/-- `sint8` is the two's-complement value of the byte (R9). -/
theorem sint8_eq_toInt (b : Byte) : sint8 b = b.toInt := by
  unfold sint8 uint8
  rw [BitVec.toInt_eq_toNat_cond]
  have := b.isLt
  split <;> split <;> omega

theorem sint8_bounds (b : Byte) : -128 ≤ sint8 b ∧ sint8 b ≤ 127 := by
  unfold sint8 uint8
  have := b.isLt
  split <;> omega

/-- `byte_of_sint8` undoes `sint8` (R9). -/
theorem byteOfSint8_sint8 (b : Byte) : byteOfSint8 (sint8 b) = b := by
  have := b.isLt
  apply BitVec.eq_of_toNat_eq
  unfold byteOfSint8 sint8 uint8
  rw [BitVec.toNat_ofNat]
  split <;> omega

/-- `sint8` undoes `byte_of_sint8` on the signed 8-bit range (R9). -/
theorem sint8_byteOfSint8 {k : Int} (h : -128 ≤ k ∧ k ≤ 127) : sint8 (byteOfSint8 k) = k := by
  unfold byteOfSint8 sint8 uint8
  rw [BitVec.toNat_ofNat]
  split <;> omega

namespace Machine

@[simp] theorem wait_eq (s : State) : wait s = .next s := rfl

/-- A row whose byte stands at the front of `RX`, and which fits, takes the byte and has its effect. -/
theorem rxRow_runs {fits : Bool} {b : Byte} {f : State → State} {s : State} {rest : List Byte}
    (hrx : s.rx = b :: rest) (hfit : fits = true) : rxRow fits b f s = .next (f (s.setRx rest)) := by
  simp [rxRow, hrx, hfit]

/-- Everything a row of the opcode map can do: its effect on the front byte, or nothing. -/
theorem rxRow_cases (fits : Bool) (b : Byte) (f : State → State) (s : State) :
    (∃ rest, s.rx = b :: rest ∧ fits = true ∧ rxRow fits b f s = .next (f (s.setRx rest))) ∨
    rxRow fits b f s = .next s := by
  unfold rxRow
  cases hrx : s.rx with
  | nil => exact .inr rfl
  | cons c rest =>
    by_cases h : fits = true ∧ c = b
    · exact .inl ⟨rest, by rw [h.2], h.1, by simp [h]⟩
    · exact .inr (by simp [h])

/-- `RX_BYTE` takes the front byte and has the effect of the current decoder state. -/
theorem execRxByte_cons {s : State} {b : Byte} {rest : List Byte} (hrx : s.rx = b :: rest) :
    execRxByte s = .next (rxEffect b (s.setRx rest)) := by
  simp [execRxByte, hrx]

theorem execRxByte_nil {s : State} (hrx : s.rx = []) : execRxByte s = .next s := by
  simp [execRxByte, hrx]

/-- Storing a payload byte touches the decoder registers only. -/
theorem decStore_frame (c : Byte) (s : State) : decStore c s = s.setDec (decStore c s).dec := by
  unfold decStore
  by_cases h : s.dec.idx = 4 <;> simp [h]

theorem rxEffect_hunt0 (b : Byte) {s : State} (h : s.dec.ds = .hunt0) :
    rxEffect b s = if b = Config.escByte then setDs .hunt1 s else setDs .hunt0 s := by
  simp only [rxEffect, h]

theorem rxEffect_hunt1 (b : Byte) {s : State} (h : s.dec.ds = .hunt1) :
    rxEffect b s = if b = Config.startByte then beginAttempt s
      else if b = Config.escByte then setDs .hunt1 s else setDs .hunt0 s := by
  simp only [rxEffect, h]

theorem rxEffect_pay (b : Byte) {s : State} (h : s.dec.ds = .pay) :
    rxEffect b s = if b = Config.escByte then setDs .esc s else decStore b s := by
  simp only [rxEffect, h]

theorem rxEffect_esc (b : Byte) {s : State} (h : s.dec.ds = .esc) :
    rxEffect b s = if b = Config.escByte then decStore Config.escByte s else abort .escPair s := by
  simp only [rxEffect, h]

theorem rxEffect_end1 (b : Byte) {s : State} (h : s.dec.ds = .end1) : rxEffect b s = firstEndByte b s := by
  simp only [rxEffect, h]

theorem rxEffect_end2 (b : Byte) {s : State} (h : s.dec.ds = .end2) :
    rxEffect b s = if s.dec.e1ok = true ∧ b = Config.endByte then accept s else abort .badEnd s := by
  simp only [rxEffect, h]

/-- The second end byte after a good first one (R130). -/
theorem rxEffect_accept {s : State} (h : s.dec.ds = .end2) (he : s.dec.e1ok = true) :
    rxEffect 0x03#8 s = accept s := by
  rw [rxEffect_end2 _ h, if_pos ⟨he, rfl⟩]

/-- Any other second end byte, or any at all after a bad first one (R131). -/
theorem rxEffect_badEnd {b : Byte} {s : State} (h : s.dec.ds = .end2) (hb : s.dec.e1ok = false ∨ b ≠ 0x03#8) :
    rxEffect b s = abort .badEnd s := by
  rw [rxEffect_end2 _ h, if_neg]
  rintro ⟨he, rfl⟩
  rcases hb with hb | hb
  · rw [he] at hb; cases hb
  · exact hb rfl

/-- One received byte, in every decoder state: an accept, or a change of the decoder registers alone. -/
theorem rxEffect_cases (b : Byte) (s : State) :
    (s.dec.ds = .end2 ∧ s.dec.e1ok = true ∧ b = Config.endByte ∧ rxEffect b s = accept s) ∨
    rxEffect b s = s.setDec (rxEffect b s).dec := by
  cases hds : s.dec.ds with
  | hunt0 => right; rw [rxEffect_hunt0 b hds]; split <;> rfl
  | hunt1 => right; rw [rxEffect_hunt1 b hds]; split <;> (try split) <;> rfl
  | pay =>
    right; rw [rxEffect_pay b hds]
    split
    · rfl
    · exact decStore_frame b s
  | esc =>
    right; rw [rxEffect_esc b hds]
    split
    · exact decStore_frame Config.escByte s
    · rfl
  | end1 => right; rw [rxEffect_end1 b hds]; rfl
  | end2 =>
    rw [rxEffect_end2 b hds]
    split
    · rename_i h; exact .inl ⟨rfl, h.1, h.2, rfl⟩
    · exact .inr rfl

/-- `TX_BYTE` on a busy encoder: one byte is pushed and only the encoder's registers change with it. -/
theorem execTxByte_busy {s : State} (h : s.enc.es ≠ .idle) :
    ∃ b e, execTxByte s = .next ((txPush b s).setEnc e) := by
  unfold execTxByte
  split
  · contradiction
  · exact ⟨_, _, rfl⟩
  · exact ⟨_, _, rfl⟩
  · unfold txData encAdvance
    simp only
    split
    · exact ⟨_, _, rfl⟩
    · split <;> exact ⟨_, _, rfl⟩
  · unfold encAdvance
    split <;> exact ⟨_, _, rfl⟩
  · exact ⟨_, _, rfl⟩
  · exact ⟨_, _, rfl⟩

/-- `n` times `RX_BYTE` always answers a next state. -/
theorem rxTimes_next (n : Nat) (s : State) : ∃ t, rxTimes n s = .next t := by
  induction n generalizing s with
  | zero => exact ⟨s, rfl⟩
  | succ n ih =>
    cases hrx : s.rx with
    | nil => rw [rxTimes, execRxByte_nil hrx]; exact ih s
    | cons b rest => rw [rxTimes, execRxByte_cons hrx]; exact ih _

/-- `n + 1` times `RX_BYTE` on a stream that has a byte: its effect, then `n` times more. -/
theorem rxTimes_cons {n : Nat} {s : State} {b : Byte} {rest : List Byte} (hrx : s.rx = b :: rest) :
    rxTimes (n + 1) s = rxTimes n (rxEffect b (s.setRx rest)) := by
  rw [rxTimes, execRxByte_cons hrx]

/-- A token whose bytes stand at the front of `RX` is one `RX_BYTE` a byte. -/
theorem rxToken_front {tok : List Byte} {s : State} {rest : List Byte} (hrx : s.rx = tok ++ rest) :
    rxToken tok s = rxTimes tok.length s := by
  simp [rxToken, hrx]

end Machine
end Sys2Proof
end

