-- ==== Sys2Proof/Laws/PerInstr.lean ====
section
/-! SUPPORT. Statements made for every instruction, one lemma per constructor. -/

namespace Sys2Proof.Laws

/-- The width of an instruction's row in spec/opcode_table.json, in bits; an EVENT row has no bits (R88, R91). -/
def EncodingWidth.tableBits : Instr → Nat
  | .startMarker => 16
  | .endMarker => 16
  | .escapedEscape => 16
  | .plainByte _ => 8
  | .rxHunt0Esc => 8
  | .rxHunt0Noise _ => 8
  | .rxHunt1Start => 8
  | .rxHunt1Esc => 8
  | .rxHunt1Noise _ => 8
  | .rxPayEsc => 8
  | .rxPayPlain _ => 8
  | .rxEscLiteral => 8
  | .rxEscAbort _ => 8
  | .rxEnd1 _ => 8
  | .rxEnd2Accept => 8
  | .rxEnd2Abort _ => 8
  | .wireRecord _ _ _ _ _ => 40
  | .rxByte => 0
  | .applyCmd _ => 0
  | .encStart _ => 0
  | .txByte => 0
  | .tick => 0
  | .start => 0
  | .stop => 0
  | .reset => 0
  | .encode _ => 0
  | .toLogical _ => 0
  | .toWire _ => 0

/-- An instruction's bytes fill its row of the opcode table exactly, and it has a decoding context just when its row has
bits. -/
def EncodingWidth.Statement (i : Instr) : Prop :=
  8 * (encode i).length = EncodingWidth.tableBits i ∧ (i.source = none ↔ EncodingWidth.tableBits i = 0)

theorem EncodingWidth.startMarker : EncodingWidth.Statement .startMarker := by
  simp [EncodingWidth.Statement, EncodingWidth.tableBits, Sys2Proof.encode, Instr.source]

theorem EncodingWidth.endMarker : EncodingWidth.Statement .endMarker := by
  simp [EncodingWidth.Statement, EncodingWidth.tableBits, Sys2Proof.encode, Instr.source]

theorem EncodingWidth.escapedEscape : EncodingWidth.Statement .escapedEscape := by
  simp [EncodingWidth.Statement, EncodingWidth.tableBits, Sys2Proof.encode, Instr.source]

theorem EncodingWidth.plainByte (b : Byte) : EncodingWidth.Statement (.plainByte b) := by
  simp [EncodingWidth.Statement, EncodingWidth.tableBits, Sys2Proof.encode, Instr.source]

theorem EncodingWidth.rxHunt0Esc : EncodingWidth.Statement .rxHunt0Esc := by
  simp [EncodingWidth.Statement, EncodingWidth.tableBits, Sys2Proof.encode, Instr.source]

theorem EncodingWidth.rxHunt0Noise (b : Byte) : EncodingWidth.Statement (.rxHunt0Noise b) := by
  simp [EncodingWidth.Statement, EncodingWidth.tableBits, Sys2Proof.encode, Instr.source]

theorem EncodingWidth.rxHunt1Start : EncodingWidth.Statement .rxHunt1Start := by
  simp [EncodingWidth.Statement, EncodingWidth.tableBits, Sys2Proof.encode, Instr.source]

theorem EncodingWidth.rxHunt1Esc : EncodingWidth.Statement .rxHunt1Esc := by
  simp [EncodingWidth.Statement, EncodingWidth.tableBits, Sys2Proof.encode, Instr.source]

theorem EncodingWidth.rxHunt1Noise (b : Byte) : EncodingWidth.Statement (.rxHunt1Noise b) := by
  simp [EncodingWidth.Statement, EncodingWidth.tableBits, Sys2Proof.encode, Instr.source]

theorem EncodingWidth.rxPayEsc : EncodingWidth.Statement .rxPayEsc := by
  simp [EncodingWidth.Statement, EncodingWidth.tableBits, Sys2Proof.encode, Instr.source]

theorem EncodingWidth.rxPayPlain (b : Byte) : EncodingWidth.Statement (.rxPayPlain b) := by
  simp [EncodingWidth.Statement, EncodingWidth.tableBits, Sys2Proof.encode, Instr.source]

theorem EncodingWidth.rxEscLiteral : EncodingWidth.Statement .rxEscLiteral := by
  simp [EncodingWidth.Statement, EncodingWidth.tableBits, Sys2Proof.encode, Instr.source]

theorem EncodingWidth.rxEscAbort (b : Byte) : EncodingWidth.Statement (.rxEscAbort b) := by
  simp [EncodingWidth.Statement, EncodingWidth.tableBits, Sys2Proof.encode, Instr.source]

theorem EncodingWidth.rxEnd1 (b : Byte) : EncodingWidth.Statement (.rxEnd1 b) := by
  simp [EncodingWidth.Statement, EncodingWidth.tableBits, Sys2Proof.encode, Instr.source]

theorem EncodingWidth.rxEnd2Accept : EncodingWidth.Statement .rxEnd2Accept := by
  simp [EncodingWidth.Statement, EncodingWidth.tableBits, Sys2Proof.encode, Instr.source]

theorem EncodingWidth.rxEnd2Abort (b : Byte) : EncodingWidth.Statement (.rxEnd2Abort b) := by
  simp [EncodingWidth.Statement, EncodingWidth.tableBits, Sys2Proof.encode, Instr.source]

theorem EncodingWidth.wireRecord (left right h v : Int) (grab : Nat) : EncodingWidth.Statement (.wireRecord left right h v grab) := by
  simp [EncodingWidth.Statement, EncodingWidth.tableBits, Sys2Proof.encode, Instr.source]

theorem EncodingWidth.rxByte : EncodingWidth.Statement .rxByte := by
  simp [EncodingWidth.Statement, EncodingWidth.tableBits, Sys2Proof.encode, Instr.source]

theorem EncodingWidth.applyCmd (cmd : ControlCommand) : EncodingWidth.Statement (.applyCmd cmd) := by
  simp [EncodingWidth.Statement, EncodingWidth.tableBits, Sys2Proof.encode, Instr.source]

theorem EncodingWidth.encStart (p : Payload) : EncodingWidth.Statement (.encStart p) := by
  simp [EncodingWidth.Statement, EncodingWidth.tableBits, Sys2Proof.encode, Instr.source]

theorem EncodingWidth.txByte : EncodingWidth.Statement .txByte := by
  simp [EncodingWidth.Statement, EncodingWidth.tableBits, Sys2Proof.encode, Instr.source]

theorem EncodingWidth.tick : EncodingWidth.Statement .tick := by
  simp [EncodingWidth.Statement, EncodingWidth.tableBits, Sys2Proof.encode, Instr.source]

theorem EncodingWidth.start : EncodingWidth.Statement .start := by
  simp [EncodingWidth.Statement, EncodingWidth.tableBits, Sys2Proof.encode, Instr.source]

theorem EncodingWidth.stop : EncodingWidth.Statement .stop := by
  simp [EncodingWidth.Statement, EncodingWidth.tableBits, Sys2Proof.encode, Instr.source]

theorem EncodingWidth.reset : EncodingWidth.Statement .reset := by
  simp [EncodingWidth.Statement, EncodingWidth.tableBits, Sys2Proof.encode, Instr.source]

theorem EncodingWidth.encode (p : Payload) : EncodingWidth.Statement (.encode p) := by
  simp [EncodingWidth.Statement, EncodingWidth.tableBits, Sys2Proof.encode, Instr.source]

theorem EncodingWidth.toLogical (p : Payload) : EncodingWidth.Statement (.toLogical p) := by
  simp [EncodingWidth.Statement, EncodingWidth.tableBits, Sys2Proof.encode, Instr.source]

theorem EncodingWidth.toWire (cmd : ControlCommand) : EncodingWidth.Statement (.toWire cmd) := by
  simp [EncodingWidth.Statement, EncodingWidth.tableBits, Sys2Proof.encode, Instr.source]

end Sys2Proof.Laws
end

