-- ==== Sys2Proof/Laws/Run.lean ====
section
/-! SUPPORT. How runs unfold: one event of a schedule, or of an infinite course, at a time. -/

namespace Sys2Proof.Machine

theorem step_nil {s : State} (h : s.sched = []) : step s = .next s := by
  simp [step, h]

theorem step_cons {s : State} {e : Event} {es : List Event} (h : s.sched = e :: es) :
    step s = perform e (s.setSched es) := by
  simp [step, h]

theorem play_nil (s : State) : play [] s = .next (s.setSched []) := rfl

/-- The first event of a run. -/
theorem play_cons (e : Event) (es : List Event) (s : State) :
    play (e :: es) s =
      match perform e (s.setSched es) with
      | .next t => stepN es.length t
      | .fault r => .fault r
      | .refused r => .refused r := by
  rw [play, List.length_cons, stepN, step_cons (e := e) (es := es) (by simp), State.setSched_setSched]
  rfl

/-- A run whose first event leads to `t` is the rest of the run from `t`, when the event left the schedule alone. -/
theorem play_cons_next {e : Event} {es : List Event} {s t : State} (h : perform e (s.setSched es) = .next t)
    (hs : t.sched = es) : play (e :: es) s = play es t := by
  rw [play_cons, h, play]
  have : t.setSched es = t := by rw [← hs]; rfl
  rw [this]

/-- An operation that is enabled is performed. -/
theorem perform_enabled {i : Instr} {s : State} (h : enabled i s = true) : perform (.op i) s = exec i s := by
  simp [perform, fetch, h]

/-- An operation that is not enabled is passed over (log 2). -/
theorem perform_disabled {i : Instr} {s : State} (h : enabled i s = false) : perform (.op i) s = .next s := by
  simp [perform, fetch, h]

/-- A run whose first event is an enabled operation that leads to `t` is the rest of the run from `t`. -/
theorem play_op {i : Instr} {es : List Event} {s t : State} (he : enabled i (s.setSched es) = true)
    (h : exec i (s.setSched es) = .next t) (hs : t.sched = es) : play (.op i :: es) s = play es t :=
  play_cons_next (by rw [perform_enabled he, h]) hs

/-- A run whose first event is an operation that is not enabled is the rest of the run. -/
theorem play_op_disabled {i : Instr} {es : List Event} {s : State} (he : enabled i (s.setSched es) = false) :
    play (.op i :: es) s = play es s := by
  rw [play_cons_next (perform_disabled he) rfl, play, play, State.setSched_setSched]

theorem after_of_next {e : Event} {s t : State} (h : perform e s = .next t) : after e s = t := by
  simp [after, h]

@[simp] theorem stateAt_zero (c : Course) (s : State) : stateAt c s 0 = s := rfl
@[simp] theorem stateAt_succ (c : Course) (s : State) (n : Nat) : stateAt c s (n + 1) = after (c n) (stateAt c s n) := rfl
@[simp] theorem Course.upTo_zero (c : Course) : c.upTo 0 = [] := rfl

theorem Course.upTo_succ (c : Course) (n : Nat) : c.upTo (n + 1) = c.upTo n ++ [c n] := by
  simp [Course.upTo, List.range_succ]

end Sys2Proof.Machine
end

