-- ==== Sys2Proof/Laws/Schedule.lean ====
section
/-! SUPPORT. Nothing an instruction does depends on the events still to come (R37: the schedule is no state of the
block). -/

namespace Sys2Proof.Machine

theorem decStore_setSched (c : Byte) (s : State) (es : List Event) :
    decStore c (s.setSched es) = (decStore c s).setSched es := by
  symm; unfold decStore; exact apply_ite (State.setSched · es) _ _ _

theorem encAdvance_setSched (s : State) (es : List Event) : encAdvance (s.setSched es) = (encAdvance s).setSched es := by
  symm; unfold encAdvance; exact apply_ite (State.setSched · es) _ _ _

theorem rxEffect_setSched (b : Byte) (s : State) (es : List Event) :
    rxEffect b (s.setSched es) = (rxEffect b s).setSched es := by
  cases h : s.dec.ds with
  | hunt0 => rw [rxEffect_hunt0 b h, rxEffect_hunt0 b (s := s.setSched es) h]; split <;> rfl
  | hunt1 =>
    rw [rxEffect_hunt1 b h, rxEffect_hunt1 b (s := s.setSched es) h]
    split
    · rfl
    · split <;> rfl
  | pay =>
    rw [rxEffect_pay b h, rxEffect_pay b (s := s.setSched es) h, decStore_setSched]; split <;> rfl
  | esc =>
    rw [rxEffect_esc b h, rxEffect_esc b (s := s.setSched es) h, decStore_setSched]; split <;> rfl
  | end1 => rw [rxEffect_end1 b h, rxEffect_end1 b (s := s.setSched es) h]; rfl
  | end2 =>
    by_cases hb : s.dec.e1ok = true ∧ b = Config.endByte
    · obtain ⟨he, rfl⟩ := hb
      exact (rxEffect_accept (s := s.setSched es) h he).trans (congrArg (State.setSched · es) (rxEffect_accept h he)).symm
    · rw [rxEffect_end2 b h, rxEffect_end2 b (s := s.setSched es) h, if_neg hb]
      exact if_neg hb

theorem execRxByte_setSched {s t : State} (es : List Event) (h : execRxByte s = .next t) :
    execRxByte (s.setSched es) = .next (t.setSched es) := by
  cases hrx : s.rx with
  | nil => rw [execRxByte_nil hrx] at h; cases h; exact execRxByte_nil hrx
  | cons b rest =>
    rw [execRxByte_cons hrx] at h; cases h
    exact (execRxByte_cons (s := s.setSched es) hrx).trans (congrArg _ (rxEffect_setSched b (s.setRx rest) es))

theorem rxTimes_setSched {n : Nat} {s t : State} (es : List Event) (h : rxTimes n s = .next t) :
    rxTimes n (s.setSched es) = .next (t.setSched es) := by
  induction n generalizing s with
  | zero => cases h; rfl
  | succ n ih =>
    rw [rxTimes] at h
    split at h
    · rename_i u hu; rw [rxTimes, execRxByte_setSched es hu]; exact ih h
    · cases h
    · cases h

theorem rxToken_setSched {tok : List Byte} {s t : State} (es : List Event) (h : rxToken tok s = .next t) :
    rxToken tok (s.setSched es) = .next (t.setSched es) := by
  by_cases hp : tok.isPrefixOf s.rx = true
  · rw [rxToken, if_pos hp] at h
    exact (if_pos (c := tok.isPrefixOf (s.setSched es).rx = true) hp).trans (rxTimes_setSched es h)
  · rw [rxToken, if_neg hp] at h; cases h
    exact if_neg (c := tok.isPrefixOf (s.setSched es).rx = true) hp

theorem rxRow_setSched {fits : Bool} {b : Byte} {f : State → State} {s t : State} (es : List Event)
    (hf : ∀ s, f (s.setSched es) = (f s).setSched es) (h : rxRow fits b f s = .next t) :
    rxRow fits b f (s.setSched es) = .next (t.setSched es) := by
  cases hrx : s.rx with
  | nil => simp only [rxRow, hrx] at h; cases h; simp [rxRow, hrx]
  | cons c rest =>
    by_cases hp : fits = true ∧ c = b
    · simp only [rxRow, hrx, hp, and_self, if_true] at h; cases h
      rw [rxRow_runs (s := s.setSched es) (rest := rest) (by rw [← hp.2]; exact hrx) hp.1]
      exact congrArg _ (hf (s.setRx rest))
    · simp only [rxRow, hrx, hp, if_false] at h; cases h; simp [rxRow, hrx, hp]

theorem execTxByte_setSched {s t : State} (es : List Event) (h : execTxByte s = .next t) :
    execTxByte (s.setSched es) = .next (t.setSched es) := by
  cases hes : s.enc.es <;> simp only [execTxByte, hes] at h <;> cases h <;>
    simp only [execTxByte, State.setSched_enc, hes]
  case dat =>
    refine congrArg _ (Eq.symm ?_)
    refine (apply_ite (State.setSched · es) _ _ _).trans ?_
    rw [← encAdvance_setSched]; rfl
  case dup => exact congrArg _ (encAdvance_setSched (txPush Config.escByte s) es)
  all_goals rfl

/-- No instruction reads the schedule or writes it: under another schedule it does the same. -/
theorem exec_setSched {i : Instr} {s t : State} (es : List Event) (h : exec i s = .next t) :
    exec i (s.setSched es) = .next (t.setSched es) := by
  cases i <;> simp only [exec] at h ⊢
  case startMarker | endMarker | escapedEscape => exact rxToken_setSched es h
  case plainByte b =>
    by_cases hb : b = Config.escByte
    · rw [execPlainByte, if_pos hb] at h ⊢; cases h; rfl
    · rw [execPlainByte, if_neg hb] at h ⊢; exact rxToken_setSched es h
  case rxPayPlain b => exact rxRow_setSched es (fun s => decStore_setSched b s es) h
  case rxEscLiteral => exact rxRow_setSched es (fun s => decStore_setSched _ s es) h
  case rxByte => exact execRxByte_setSched es h
  case txByte => exact execTxByte_setSched es h
  case encStart p =>
    cases hes : s.enc.es <;> simp only [execEncStart, hes] at h <;> cases h <;>
      simp [execEncStart, hes, State.setEnc, State.setSched]
  case tick =>
    by_cases ht : s.act.tickEn = true
    · rw [execTick, if_pos ht] at h; cases h; exact if_pos (c := (s.setSched es).act.tickEn = true) ht
    · rw [execTick, if_neg ht] at h; cases h; exact if_neg (c := (s.setSched es).act.tickEn = true) ht
  case applyCmd | start | stop | reset | wireRecord | encode | toLogical | toWire => cases h; rfl
  all_goals exact rxRow_setSched es (fun s => rfl) h

theorem fetch_setSched (e : Event) (s : State) (es : List Event) : fetch e (s.setSched es) = fetch e s := by
  cases e with
  | op i => cases i <;> rfl
  | _ => rfl

/-- No event reads the rest of the schedule. -/
theorem perform_setSched {e : Event} {s t : State} (es : List Event) (h : perform e s = .next t) :
    perform e (s.setSched es) = .next (t.setSched es) := by
  cases e with
  | arrive b => cases h; rfl
  | _ =>
    simp only [perform] at h ⊢
    rw [fetch_setSched]
    split at h
    · exact exec_setSched es h
    · cases h; rfl
end Sys2Proof.Machine
end

