-- ==== Sys2Proof/Tests/Slice0.lean ====
section
/-! SUPPORT. Small tests: ill-formed terms refused, words written out from the spec's encodings, one step per row
(expected values from spec/95_test_vectors.md and the tables of the rules), and a witness for the hypotheses of each
obligation. -/

namespace Sys2Proof.Tests
open Sys2Proof.Machine Sys2Proof.Safety

/-- The example positions of 95_test_vectors.md: opened 0, closed 1. -/
def cfg01 : Config.Params := { posOpened := 0, posClosed := 1, numFmt := .rational }

/-- The state after reset with the example positions. -/
def base : State := { State.reset with act := resetActuators cfg01, cfg := cfg01 }

/-- The payload of scenario S1: 7F 81 00 00 01. -/
def s1 : Payload := ⟨0x7F#8, 0x81#8, 0x00#8, 0x00#8, 0x01#8⟩

/-- A decoder in the middle of things, `PB` holding the payload of S1. -/
def decoding (ds : DecState) (idx : Fin 5) (e1ok : Bool) (rx : List Byte) : State :=
  { base with dec := { ds := ds, idx := idx, e1ok := e1ok, pb := s1 }, rx := rx }

/-- An encoder in the middle of the payload 10 00 00 00 10. -/
def sending (es : EncState) (eidx : Fin 5) : State :=
  { base with enc := { es := es, eidx := eidx, epb := ⟨0x10#8, 0x00#8, 0x00#8, 0x00#8, 0x10#8⟩ } }

/-- A gripper on its way, the tick on or off. -/
def gripping (cur tgt : Value) (on : Bool) : State :=
  { base with act := { base.act with gpCur := cur, gpTgt := tgt, tickEn := on } }

/-- The answer is a next state with property `p`. -/
def nextIs (a : Answer) (p : State → Bool) : Bool :=
  match a with
  | .next t => p t
  | .fault _ => false
  | .refused _ => false

/-! ## Ill-formed terms are refused (R71, R77, R79) -/

theorem test_wf_plainByte : (Instr.plainByte 0x10#8).wf = false := by decide
theorem test_wf_hunt0Noise : (Instr.rxHunt0Noise 0x10#8).wf = false := by decide
theorem test_wf_hunt1Noise_start : (Instr.rxHunt1Noise 0x02#8).wf = false := by decide
theorem test_wf_hunt1Noise_esc : (Instr.rxHunt1Noise 0x10#8).wf = false := by decide
theorem test_wf_payPlain : (Instr.rxPayPlain 0x10#8).wf = false := by decide
theorem test_wf_escAbort : (Instr.rxEscAbort 0x10#8).wf = false := by decide
theorem test_wf_record_left : (Instr.wireRecord 128 0 0 0 0).wf = false := by decide
theorem test_wf_record_right : (Instr.wireRecord 0 (-129) 0 0 0).wf = false := by decide
theorem test_wf_record_h : (Instr.wireRecord 0 0 128 0 0).wf = false := by decide
theorem test_wf_record_v : (Instr.wireRecord 0 0 0 (-129) 0).wf = false := by decide
theorem test_wf_record_grab : (Instr.wireRecord 0 0 0 0 256).wf = false := by decide

/-! ## Words written out from the encodings (R70, R71, R72, R76, R79) -/

theorem test_word_startMarker : decodeTableWord 16 0b0001000000000010 = some .startMarker := by decide
theorem test_word_endMarker : decodeTableWord 16 0b0001000000000011 = some .endMarker := by decide
theorem test_word_escapedEscape : decodeTableWord 16 0b0001000000010000 = some .escapedEscape := by decide
theorem test_word_plainByte : decode .token [0b01111111#8] = .ok (.plainByte 0x7F#8, []) := by decide
theorem test_word_noToken : decode .token [0b00010000#8, 0b01010101#8] = .error (.noToken 0x55#8) := by decide
theorem test_word_hunt0Esc : decode (.byte .hunt0 false) [0b00010000#8] = .ok (.rxHunt0Esc, []) := by decide
theorem test_word_hunt0Noise : decode (.byte .hunt0 true) [0b00000010#8] = .ok (.rxHunt0Noise 0x02#8, []) := by decide
theorem test_word_hunt1Start : decode (.byte .hunt1 false) [0b00000010#8] = .ok (.rxHunt1Start, []) := by decide
theorem test_word_hunt1Esc : decode (.byte .hunt1 false) [0b00010000#8] = .ok (.rxHunt1Esc, []) := by decide
theorem test_word_hunt1Noise : decode (.byte .hunt1 false) [0b00000011#8] = .ok (.rxHunt1Noise 0x03#8, []) := by decide
theorem test_word_payEsc : decode (.byte .pay false) [0b00010000#8] = .ok (.rxPayEsc, []) := by decide
theorem test_word_payPlain : decode (.byte .pay true) [0b00000011#8] = .ok (.rxPayPlain 0x03#8, []) := by decide
theorem test_word_escLiteral : decode (.byte .esc false) [0b00010000#8] = .ok (.rxEscLiteral, []) := by decide
theorem test_word_escAbort : decode (.byte .esc false) [0b00000010#8] = .ok (.rxEscAbort 0x02#8, []) := by decide
theorem test_word_end1 : decode (.byte .end1 false) [0b00010000#8] = .ok (.rxEnd1 0x10#8, []) := by decide
theorem test_word_end2Accept : decode (.byte .end2 true) [0b00000011#8] = .ok (.rxEnd2Accept, []) := by decide
theorem test_word_end2Abort : decode (.byte .end2 false) [0b00000011#8] = .ok (.rxEnd2Abort 0x03#8, []) := by decide
theorem test_word_record :
    decodeTableWord 40 0b0111111110000001000000000000000000000001 = some (.wireRecord 127 (-127) 0 0 1) := by decide
theorem test_word_record_signs : decodeTableWord 40 0x8000FF01FF = some (.wireRecord (-128) 0 (-1) 1 255) := by decide
theorem test_word_event : decodeTableWord 0 0 = none := by decide

/-- The record of S1 handed in through the interface is what the next step runs (V-TR-01). -/
theorem test_fetch_record :
    nextIs (step (base.withFetchWord 40 0x7F81000001))
      (fun t => t.result == .command ⟨1, -1, 0, 0, true⟩) = true := by decide +kernel

/-- The word of START handed in through the interface begins an attempt (R71). -/
theorem test_fetch_startMarker :
    nextIs (step (State.reset.withFetchWord 16 0x1002)) (fun t => t.dec.ds == .pay && t.rx == []) = true := by
  decide +kernel

/-! ## The decoder (V-DEC-S01 to S22) -/

theorem test_hunt0Esc_S03 : nextIs (exec .rxHunt0Esc (decoding .hunt0 3 true [0x10#8, 0x02#8]))
    (fun t => t.dec == ⟨.hunt1, 3, true, s1⟩ && t.rx == [0x02#8]) = true := by decide +kernel
theorem test_hunt0Noise_S02 : nextIs (exec (.rxHunt0Noise 0x02#8) (decoding .hunt0 3 true [0x02#8]))
    (fun t => t.dec == ⟨.hunt0, 3, true, s1⟩ && t.rx == []) = true := by decide +kernel
theorem test_hunt1Start_S04 : nextIs (exec .rxHunt1Start (decoding .hunt1 3 false [0x02#8]))
    (fun t => t.dec == ⟨.pay, 0, false, s1⟩ && t.rx == []) = true := by decide +kernel
theorem test_hunt1Esc_S05 : nextIs (exec .rxHunt1Esc (decoding .hunt1 3 false [0x10#8]))
    (fun t => t.dec == ⟨.hunt1, 3, false, s1⟩ && t.rx == []) = true := by decide +kernel
theorem test_hunt1Noise_S06 : nextIs (exec (.rxHunt1Noise 0x03#8) (decoding .hunt1 3 false [0x03#8]))
    (fun t => t.dec == ⟨.hunt0, 3, false, s1⟩ && t.rx == []) = true := by decide +kernel
theorem test_payPlain_S09 : nextIs (exec (.rxPayPlain 0x02#8) (decoding .pay 3 false [0x02#8]))
    (fun t => t.dec == ⟨.pay, 4, false, ⟨0x7F#8, 0x81#8, 0x00#8, 0x02#8, 0x01#8⟩⟩) = true := by decide +kernel
theorem test_payPlain_S10 : nextIs (exec (.rxPayPlain 0x03#8) (decoding .pay 4 false [0x03#8]))
    (fun t => t.dec == ⟨.end1, 4, false, ⟨0x7F#8, 0x81#8, 0x00#8, 0x00#8, 0x03#8⟩⟩) = true := by decide +kernel
theorem test_payEsc_S11 : nextIs (exec .rxPayEsc (decoding .pay 2 false [0x10#8]))
    (fun t => t.dec == ⟨.esc, 2, false, s1⟩ && t.rx == []) = true := by decide +kernel
theorem test_escLiteral_S12 : nextIs (exec .rxEscLiteral (decoding .esc 2 false [0x10#8]))
    (fun t => t.dec == ⟨.pay, 3, false, ⟨0x7F#8, 0x81#8, 0x10#8, 0x00#8, 0x01#8⟩⟩) = true := by decide +kernel
theorem test_escLiteral_S13 : nextIs (exec .rxEscLiteral (decoding .esc 4 false [0x10#8]))
    (fun t => t.dec == ⟨.end1, 4, false, ⟨0x7F#8, 0x81#8, 0x00#8, 0x00#8, 0x10#8⟩⟩) = true := by decide +kernel
theorem test_escAbort_S15 : nextIs (exec (.rxEscAbort 0x02#8) (decoding .esc 0 false [0x02#8]))
    (fun t => t.dec == ⟨.hunt0, 0, false, s1⟩ && t.delivered == []) = true := by decide +kernel
theorem test_end1_S17 : nextIs (exec (.rxEnd1 0x10#8) (decoding .end1 4 false [0x10#8]))
    (fun t => t.dec == ⟨.end2, 4, true, s1⟩) = true := by decide +kernel
theorem test_end1_S18 : nextIs (exec (.rxEnd1 0x03#8) (decoding .end1 4 true [0x03#8]))
    (fun t => t.dec == ⟨.end2, 4, false, s1⟩) = true := by decide +kernel
/-- S19 with V-AP-01: DL = 1, DR = -1, AH = AV = 0, the target closed, the position untouched. -/
theorem test_end2Accept_S19 : nextIs (exec .rxEnd2Accept (decoding .end2 4 true [0x03#8]))
    (fun t => t.dec.ds == .hunt0 && t.delivered == [s1] && t.act == ⟨some 1, some (-1), some 0, some 0, 1, 0, false⟩) =
      true := by decide +kernel
theorem test_end2Abort_S21 : nextIs (exec (.rxEnd2Abort 0x10#8) (decoding .end2 4 true [0x10#8]))
    (fun t => t.dec.ds == .hunt0 && t.delivered == [] && t.act.dl == none) = true := by decide +kernel
theorem test_end2Abort_S22 : nextIs (exec (.rxEnd2Abort 0x03#8) (decoding .end2 4 false [0x03#8]))
    (fun t => t.dec.ds == .hunt0 && t.delivered == [] && t.act.dl == none) = true := by decide +kernel
theorem test_rxByte_S14 : nextIs (exec .rxByte (decoding .esc 2 false [0x03#8, 0x10#8]))
    (fun t => t.dec.ds == .hunt0 && t.rx == [0x10#8] && t.delivered == []) = true := by decide +kernel
/-- R51 (c): with `RX` empty the decoder waits. -/
theorem test_rxByte_empty : nextIs (exec .rxByte (decoding .pay 2 false [])) (fun t => t == decoding .pay 2 false []) =
    true := by decide +kernel
/-- R71: `START` is found at once in HUNT1 too (V-DEC-11: 10 10 02). -/
theorem test_startMarker : nextIs (exec .startMarker (decoding .hunt1 2 false [0x10#8, 0x02#8, 0x01#8]))
    (fun t => t.dec.ds == .pay && t.dec.idx == 0 && t.rx == [0x01#8]) = true := by decide +kernel
theorem test_endMarker : nextIs (exec .endMarker (decoding .end1 4 false [0x10#8, 0x03#8]))
    (fun t => t.dec.ds == .hunt0 && t.delivered == [s1] && t.act.gpTgt == 1) = true := by decide +kernel
theorem test_escapedEscape : nextIs (exec .escapedEscape (decoding .pay 1 false [0x10#8, 0x10#8]))
    (fun t => t.dec == ⟨.pay, 2, false, ⟨0x7F#8, 0x10#8, 0x00#8, 0x00#8, 0x01#8⟩⟩) = true := by decide +kernel
theorem test_plainByte_S08 : nextIs (exec (.plainByte 0x7E#8) (decoding .pay 0 false [0x7E#8]))
    (fun t => t.dec == ⟨.pay, 1, false, ⟨0x7E#8, 0x81#8, 0x00#8, 0x00#8, 0x01#8⟩⟩) = true := by decide +kernel
/-- V-DEC-14, as a fold: end bytes 10 10 abort, and the 02 after them does not complete a `START`. -/
theorem test_decRun_V_DEC_14 : (decRun State.reset.dec
    ([0x10#8, 0x02#8, 0x01#8, 0x02#8, 0x03#8, 0x04#8, 0x05#8, 0x10#8, 0x10#8] ++
      [0x02#8, 0x0A#8, 0x0B#8, 0x0C#8, 0x0D#8, 0x00#8, 0x10#8, 0x03#8])).2 = [] := by decide +kernel

/-! ## The encoder (section 2 of 95_test_vectors.md) -/

theorem test_encode_V_ENC_06 : nextIs (exec (.encode ⟨0x10#8, 0x02#8, 0x10#8, 0x03#8, 0x10#8⟩) base)
    (fun t => t.result == .frame
      ([0x10#8, 0x02#8, 0x10#8, 0x10#8, 0x02#8, 0x10#8] ++ [0x10#8, 0x03#8, 0x10#8, 0x10#8, 0x10#8, 0x03#8])) = true := by
  decide +kernel
theorem test_encStart_idle : nextIs (exec (.encStart s1) base) (fun t => t.enc == ⟨.sm0, 0, s1⟩ && t.tx == []) = true := by
  decide +kernel
/-- V-ENC-10: a busy encoder ignores the request. -/
theorem test_encStart_busy : nextIs (exec (.encStart s1) (sending .dat 1)) (fun t => t.enc == (sending .dat 1).enc) =
    true := by decide +kernel
/-- Step 7 of the trace of V-ENC-03. -/
theorem test_txByte_escape : nextIs (exec .txByte (sending .dat 4)) (fun t => t.tx == [0x10#8] && t.enc.es == .dup) =
    true := by decide +kernel
/-- Step 8 of the trace of V-ENC-03. -/
theorem test_txByte_dup : nextIs (exec .txByte (sending .dup 4))
    (fun t => t.tx == [0x10#8] && t.enc.es == .em0 && t.enc.eidx == 4) = true := by decide +kernel

/-! ## The translator (V-TR, V-AP) -/

theorem test_toLogical_V_TR_04 : nextIs (exec (.toLogical ⟨0x01#8, 0xFF#8, 0x40#8, 0xC0#8, 0xFF#8⟩) base)
    (fun t => t.result == .command ⟨1 / 127, -1 / 127, 64 / 127, -64 / 127, true⟩) = true := by decide +kernel
theorem test_toWire_V_TR_11 : nextIs (exec (.toWire ⟨2, -2, 128 / 127, -129 / 127, false⟩) base)
    (fun t => t.result == .record ⟨0x7F#8, 0x80#8, 0x7F#8, 0x80#8, 0x00#8⟩) = true := by decide +kernel
theorem test_toWire_V_TR_12 : nextIs (exec (.toWire ⟨1 / 254, -1 / 254, 1 / 255, -1 / 255, true⟩) base)
    (fun t => t.result == .record ⟨0x01#8, 0xFF#8, 0x00#8, 0x00#8, 0x01#8⟩) = true := by decide +kernel
/-- V-TR-03: -128 is not clamped. -/
theorem test_wireRecord_V_TR_03 : nextIs (exec (.wireRecord (-128) (-128) (-128) (-128) 0) base)
    (fun t => t.result == .command ⟨-128 / 127, -128 / 127, -128 / 127, -128 / 127, false⟩) = true := by decide +kernel
/-- R158, R159 with `grab` = false: the target becomes the opened position, the position stays. -/
theorem test_applyCmd : nextIs (exec (.applyCmd ⟨0, 1, 32 / 127, -32 / 127, false⟩) (gripping (1 / 4) 1 true))
    (fun t => t.act == ⟨some 0, some 1, some (32 / 127), some (-32 / 127), 0, 1 / 4, true⟩) = true := by decide +kernel

/-! ## The smoothing register and RESET (V-SM, V-RS) -/

theorem test_tick_V_SM_01 : nextIs (exec .tick (gripping 0 1 true)) (fun t => t.act.gpCur == 1 / 4 && t.act.gpTgt == 1) =
    true := by decide +kernel
theorem test_tick_V_SM_07 : nextIs (exec .tick (gripping 0 1 false)) (fun t => t == gripping 0 1 false) = true := by
  decide +kernel
theorem test_start_V_SM_08 : nextIs (exec .start (gripping 0 1 false)) (fun t => t.act == (gripping 0 1 true).act) =
    true := by decide +kernel
theorem test_stop_V_SM_09 : nextIs (exec .stop (gripping (1 / 4) 1 true))
    (fun t => t.act == (gripping (1 / 4) 1 false).act) = true := by decide +kernel
/-- V-RS-01, with bytes left in `RX` (R220: not touched). -/
theorem test_reset_V_RS_01 :
    nextIs (exec .reset { decoding .pay 3 false [0x55#8] with
        enc := (sending .dat 0).enc, tx := [0x10#8], act := ⟨some 1, none, none, none, 1, 7 / 16, true⟩ })
      (fun t => t.dec.ds == .hunt0 && t.enc.es == .idle && t.act == ⟨none, none, none, none, 0, 0, false⟩ &&
        t.rx == [0x55#8] && t.tx == []) = true := by decide +kernel

/-! ## Witnesses: the hypotheses of the obligations can be met -/

theorem witness_EveryEncodedInstructionDecodesBack :
    (Instr.wireRecord (-128) 127 0 (-1) 255).wf = true ∧ (Instr.wireRecord (-128) 127 0 (-1) 255).source = some .record ∧
    (Instr.plainByte 0xFF#8).wf = true ∧ (Instr.plainByte 0xFF#8).source = some .token ∧
    (Instr.rxEnd1 0x10#8).wf = true ∧ (Instr.rxEnd1 0x10#8).source = some (.byte .end1 false) := by decide

theorem witness_DecodedBytesAreTheInstructionsEncoding :
    decode .token [0x10#8, 0x10#8, 0x02#8] = .ok (.escapedEscape, [0x02#8]) := by decide

theorem witness_ReceivedByteSelectsItsTableRow :
    (⟨"RX_HUNT0_NOISE", .hunt0, 0x00#8, 0x00#8, 1, false⟩ : RxRow) ∈ rxRows ∧
    (⟨"RX_HUNT0_NOISE", .hunt0, 0x00#8, 0x00#8, 1, false⟩ : RxRow).matchesByte .hunt0 true 0x10#8 = true ∧
    (⟨"RX_HUNT0_NOISE", .hunt0, 0x00#8, 0x00#8, 1, false⟩ : RxRow) ≠ ⟨"RX_HUNT0_ESC", .hunt0, 0x10#8, 0xFF#8, 0, false⟩ := by
  decide

/-- A byte, a token, a record, an operation, an arrival and an empty schedule. -/
theorem witness_StepRunsTheDecodedInstruction :
    decode (.byte .end2 true) (decoding .end2 4 true [0x03#8]).rx = .ok (.rxEnd2Accept, []) ∧
    decode .token (decoding .pay 0 false [0x10#8, 0x10#8]).rx = .ok (.escapedEscape, []) ∧
    decode .record (payloadOfWord 0x7F81000001#40).bytes = .ok (.wireRecord 127 (-127) 0 0 1, []) ∧
    enabled .start (base.setSched []) = true ∧
    (base.setSched [.arrive 0x10#8]).sched = .arrive 0x10#8 :: [] ∧ base.sched = [] := by decide

theorem witness_OperationNotEnabledChangesNothing :
    (∀ cmd, Instr.txByte ≠ .applyCmd cmd) ∧ enabled .txByte base = false ∧
    (∀ cmd, Instr.rxHunt1Start ≠ .applyCmd cmd) ∧ enabled .rxHunt1Start (decoding .hunt0 0 false [0x02#8]) = false := by
  refine ⟨fun _ h => (by cases h), by decide, fun _ h => (by cases h), by decide⟩

/-- One instruction for each clause: none of these writes the registers of the clause. -/
theorem witness_RegistersAreWrittenOnlyByTheirOwners :
    (∃ t, exec .tick (gripping 0 1 true) = .next t) ∧ writesDecoder .tick = false ∧ writesEncoder .tick = false ∧
    writesTarget .tick = false ∧ writesTickEn .tick = false ∧
    (∃ t, exec (.applyCmd ⟨0, 0, 0, 0, true⟩) base = .next t) ∧ writesPosition (.applyCmd ⟨0, 0, 0, 0, true⟩) = false :=
  ⟨⟨_, rfl⟩, rfl, rfl, rfl, rfl, ⟨_, rfl⟩, rfl⟩

theorem witness_StreamsAreFirstInFirstOut :
    (∃ t, step (base.setSched [.arrive 0x10#8]) = .next t) ∧
    (∃ t, step ((sending .sm0 0).setSched [.op .txByte]) = .next t) :=
  ⟨⟨_, rfl⟩, ⟨_, rfl⟩⟩

/-- A state in the middle of everything: an escape byte being doubled, levels -128/127 and 1, the gripper on its way. -/
def busy : State :=
  { sending .dup 4 with
    act := ⟨some (-128 / 127), some 1, some 0, some 0, 1, 7 / 16, true⟩, sched := [.op .tick] }

theorem witness_StepKeepsTheInvariant : BlockInv busy ∧ ∃ t, step busy = .next t := by
  refine ⟨⟨fun _ => rfl, .inr rfl, .inr ⟨_, _, _, _, rfl, rfl, rfl, rfl, ?_, ?_, ?_, ?_⟩, fun _ => ?_⟩, ⟨_, rfl⟩⟩
  · exact ⟨-128, by decide, by decide, by norm_num [numRnd, busy, sending, base, cfg01]⟩
  · exact ⟨127, by decide, by decide, by norm_num [numRnd, busy, sending, base, cfg01]⟩
  · exact ⟨0, by decide, by decide, by norm_num [numRnd, busy, sending, base, cfg01]⟩
  · exact ⟨0, by decide, by decide, by norm_num [numRnd, busy, sending, base, cfg01]⟩
  · show min (0 : ℚ) 1 ≤ 7 / 16 ∧ (7 / 16 : ℚ) ≤ max 0 1
    norm_num

/-- HUNT0 on 10 and on 02. -/
theorem witness_Hunt0RowsFollowTheirRule :
    ((decoding .hunt0 0 false [0x10#8]).rx = 0x10#8 :: [] ∧ (decoding .hunt0 0 false [0x10#8]).dec.ds = .hunt0) ∧
    ((decoding .hunt0 0 false [0x02#8]).rx = 0x02#8 :: [] ∧ (0x02#8 : Byte) ≠ 0x10#8) := by decide

/-- HUNT1 on 02, 10 and 03. -/
theorem witness_Hunt1RowsFollowTheirRule :
    ((decoding .hunt1 0 false [0x02#8]).rx = 0x02#8 :: [] ∧ (decoding .hunt1 0 false [0x02#8]).dec.ds = .hunt1) ∧
    ((decoding .hunt1 0 false [0x10#8]).rx = 0x10#8 :: [] ∧ (decoding .hunt1 0 false [0x10#8]).dec.ds = .hunt1) ∧
    ((decoding .hunt1 0 false [0x03#8]).rx = 0x03#8 :: [] ∧ (0x03#8 : Byte) ≠ 0x02#8 ∧ (0x03#8 : Byte) ≠ 0x10#8) := by
  decide

/-- PAY on 10, on a plain byte at index 0 and at index 4; ESC on 10 at index 4. -/
theorem witness_PayloadRowsFollowTheirRules :
    ((decoding .pay 0 false [0x10#8]).rx = 0x10#8 :: [] ∧ (decoding .pay 0 false [0x10#8]).dec.ds = .pay) ∧
    ((decoding .pay 0 false [0x7F#8]).rx = 0x7F#8 :: [] ∧ (decoding .pay 0 false [0x7F#8]).dec.idx.val = 0) ∧
    ((decoding .pay 4 false [0x03#8]).rx = 0x03#8 :: [] ∧ (decoding .pay 4 false [0x03#8]).dec.idx.val = 4) ∧
    ((decoding .esc 4 false [0x10#8]).rx = 0x10#8 :: [] ∧ (decoding .esc 4 false [0x10#8]).dec.ds = .esc) := by decide

/-- ESC on 03; END2 with a good first byte on 02, and with a bad first byte on 03. -/
theorem witness_AbortRowsWriteOnlyTheSequencer :
    ((decoding .esc 2 false [0x03#8]).rx = 0x03#8 :: [] ∧ (decoding .esc 2 false [0x03#8]).dec.ds = .esc ∧
      (0x03#8 : Byte) ≠ 0x10#8) ∧
    ((decoding .end2 4 true [0x02#8]).rx = 0x02#8 :: [] ∧ (decoding .end2 4 true [0x02#8]).dec.ds = .end2 ∧
      (0x02#8 : Byte) ≠ 0x03#8) ∧
    ((decoding .end2 4 false [0x03#8]).rx = 0x03#8 :: [] ∧ (decoding .end2 4 false [0x03#8]).dec.e1ok = false) := by
  decide

theorem witness_EndRowsRememberThenAccept :
    ((decoding .end1 4 false [0x10#8]).rx = 0x10#8 :: [] ∧ (decoding .end1 4 false [0x10#8]).dec.ds = .end1) ∧
    ((decoding .end2 4 true [0x03#8]).rx = 0x03#8 :: [] ∧ (decoding .end2 4 true [0x03#8]).dec.ds = .end2 ∧
      (decoding .end2 4 true [0x03#8]).dec.e1ok = true) := by decide

theorem witness_RxByteRunsTheSelectedRow : (decoding .end2 4 true [0x03#8]).rx = 0x03#8 :: [] := rfl

/-- A byte that delivers and one that does not. -/
theorem witness_RxByteFollowsTheTransitionTable :
    (decStep (decoding .end2 4 true [0x03#8]).dec 0x03#8).2 = some s1 ∧
    (decStep (decoding .end2 4 true [0x10#8]).dec 0x10#8).2 = none := by decide

theorem witness_TokensStandForTheirEffects :
    ((decoding .hunt0 0 false [0x10#8, 0x02#8]).dec.ds = .hunt0 ∧
      (decoding .hunt0 0 false [0x10#8, 0x02#8]).rx = 0x10#8 :: 0x02#8 :: []) ∧
    ((decoding .pay 4 false [0x02#8]).dec.ds = .pay ∧ (decoding .pay 4 false [0x02#8]).rx = 0x02#8 :: [] ∧
      (0x02#8 : Byte) ≠ 0x10#8) ∧
    ((decoding .pay 4 false [0x10#8, 0x10#8]).dec.ds = .pay ∧
      (decoding .pay 4 false [0x10#8, 0x10#8]).rx = 0x10#8 :: 0x10#8 :: []) ∧
    ((decoding .end1 4 false [0x10#8, 0x03#8]).dec.ds = .end1 ∧
      (decoding .end1 4 false [0x10#8, 0x03#8]).rx = 0x10#8 :: 0x03#8 :: []) := by decide

/-- A token met where it is not valid: `END` inside the payload. -/
theorem witness_TokensRunTheirBytesEverywhere :
    Instr.endMarker.source = some .token ∧ Instr.endMarker.wf = true ∧
    (decoding .pay 2 false [0x10#8, 0x03#8, 0x55#8]).rx = encode .endMarker ++ [0x55#8] ∧
    (decRun (decoding .pay 2 false []).dec (encode .endMarker)).2 = [] := by decide

/-- Two bytes consumed with a tick and an arrival between them. -/
def between : List Event := [.op .rxByte, .op .tick, .arrive 0x55#8, .op .rxByte]

theorem witness_DecoderRunsIgnoreOtherAgents :
    (decoding .pay 3 false [0x10#8, 0x10#8, 0x01#8]).rx = [0x10#8, 0x10#8] ++ [0x01#8] ∧
    (∀ e ∈ between, e = .op .rxByte ∨ eventWrites writesDecoder true e = false) ∧
    between.count (.op .rxByte) = ([0x10#8, 0x10#8] : List Byte).length := by decide

/-- A whole frame with a tick after its first byte. -/
def frameEvents : List Event := .op .rxByte :: .op .tick :: List.replicate 8 (.op .rxByte)

theorem witness_FrameIsReceivedUnderAnyInterleaving :
    (decoding .hunt1 0 false (encodeFrame s1)).dec.ds = .hunt1 ∧
    (decoding .hunt1 0 false (encodeFrame s1)).rx = encodeFrame s1 ++ [] ∧
    (∀ e ∈ frameEvents, e = .op .rxByte ∨ eventWrites writesDecoder true e = false) ∧
    frameEvents.count (.op .rxByte) = (encodeFrame s1).length := by decide

/-- Noise that ends in 10 (V-DEC-11) in HUNT0; 10 03 in HUNT1. -/
theorem witness_NoiseWithoutStartHidesNoFrame :
    ((decoding .hunt0 0 false []).dec.ds = .hunt0 ∧ ¬ [0x10#8, 0x02#8] <:+: ([0x55#8, 0x10#8] : List Byte)) ∧
    ((decoding .hunt1 0 false []).dec.ds = .hunt1 ∧
      ¬ [0x10#8, 0x02#8] <:+: ((0x10#8 : Byte) :: [0x10#8, 0x03#8])) := by decide

theorem witness_DeliveredPayloadStoodInTheStream :
    (decoding .hunt0 0 false []).dec.ds = .hunt0 ∧
    s1 ∈ (decRun (decoding .hunt0 0 false []).dec ([0x55#8, 0x10#8] ++ encodeFrame s1)).2 := by decide

/-- A decoder that hunts and one that does not; two frames on the line. -/
theorem witness_CleanStreamRecoversByTheSecondFrame :
    ((decoding .hunt1 0 false []).dec.ds = .hunt0 ∨ (decoding .hunt1 0 false []).dec.ds = .hunt1) ∧
    ¬ ((decoding .end2 4 true []).dec.ds = .hunt0 ∨ (decoding .end2 4 true []).dec.ds = .hunt1) ∧
    ([s1, s1] : List Payload) ≠ [] := by decide

theorem witness_ScratchRegistersAreUnobservable :
    agreeButScratch base { base with dec := ⟨.hunt0, 4, true, s1⟩, enc := ⟨.idle, 3, s1⟩ } ∧
    base.dec.ds = .hunt0 ∧ base.enc.es = .idle :=
  ⟨rfl, rfl, rfl⟩

theorem witness_EncStartLoadsAnIdleEncoder : base.enc.es = .idle ∧ (sending .em1 4).enc.es ≠ .idle := by decide

/-- Each state; DAT with an escape byte (index 0, 4) and with a plain byte (index 1, and 4 in another payload). -/
theorem witness_TxByteSendsByItsState :
    (sending .sm0 0).enc.es = .sm0 ∧ (sending .sm1 0).enc.es = .sm1 ∧
    ((sending .dat 4).enc.es = .dat ∧ (sending .dat 4).enc.epb.get (sending .dat 4).enc.eidx = 0x10#8) ∧
    ((sending .dat 1).enc.epb.get (sending .dat 1).enc.eidx ≠ 0x10#8 ∧ (sending .dat 1).enc.eidx.val < 4) ∧
    ({ (sending .dat 4).enc with epb := s1 }.epb.get 4 ≠ 0x10#8 ∧ (sending .dat 4).enc.eidx.val = 4) ∧
    ((sending .dup 0).enc.es = .dup ∧ (sending .dup 0).enc.eidx.val < 4) ∧
    ((sending .dup 4).enc.es = .dup ∧ (sending .dup 4).enc.eidx.val = 4) ∧
    (sending .em0 4).enc.es = .em0 ∧ (sending .em1 4).enc.es = .em1 := by decide

theorem witness_TxByteFollowsTheTransitionTable : (sending .dup 4).enc.es ≠ .idle := by decide

/-- The nine bytes of the frame of S1, with a tick and a busy `RX_BYTE` between them. -/
def sendEvents (n : Nat) : List Event := .op .txByte :: .op .tick :: .op .rxByte :: List.replicate n (.op .txByte)

theorem witness_FrameIsSentUnderAnyInterleaving :
    base.enc.es = .idle ∧
    (∀ e ∈ sendEvents 8, e = .op .txByte ∨ eventWrites writesEncoder false e = false) ∧
    (sendEvents 8).count (.op .txByte) = (encodeFrame s1).length ∧
    (sendEvents 7).count (.op .txByte) < (encodeFrame s1).length := by decide

theorem witness_FramesAreUniquelyReadable : encodeFrame s1 ++ [0x10#8] = encodeFrame s1 ++ [0x10#8] := rfl

/-- Neighbours at both ends of the int8 range, and a monotonic rounding function that is not the identity. -/
theorem witness_AxisIsMonotonic :
    (-128 : Int) < -127 ∧ (126 : Int) < 127 ∧ ∀ x y : Value, x ≤ y → (fun z : Value => z / 2) x ≤ (fun z => z / 2) y := by
  refine ⟨by decide, by decide, fun x y h => ?_⟩
  show x / 2 ≤ y / 2
  linarith

theorem witness_UnaxisRoundsThenSaturates :
    ((-128 / 127 : Value) ≤ -128 / 127 ∧ (-128 / 127 : Value) ≤ 1) ∧ ((-128 / 127 : Value) ≤ 1 ∧ (1 : Value) ≤ 1) ∧
    ((0 : Int) ≤ 0 ∧ (0 : Int) ≤ 126) ∧ ((0 : Int) ≤ 126 ∧ (126 : Int) ≤ 126) ∧ ((0 : Int) ≤ 127 ∧ (127 : Int) ≤ 127) ∧
    (1 : Value) ≤ 1 := by norm_num

theorem witness_RecordSurvivesTheRoundTrip :
    (∀ k : Int, -128 ≤ k → k ≤ 127 → |numRnd .rational ((k : Value) / 127) * 127 - k| < 1 / 2) ∧
    (⟨0x80#8, 0x7F#8, 0x81#8, 0xFF#8, 0x00#8⟩ : Payload).b4 = 0 ∧ s1.b4 = 1 := by
  refine ⟨fun k _ _ => ?_, rfl, rfl⟩
  simp [numRnd]

theorem witness_QuantisationErrorIsBounded :
    ((-1 : Value) ≤ -1 ∧ (-1 : Value) ≤ 1) ∧ ((-1 : Value) ≤ 1 ∧ (1 : Value) ≤ 1) := by norm_num

theorem witness_TickMovesOneQuarter :
    (gripping 0 1 true).act.tickEn = true ∧ (gripping 0 1 true).cfg.numFmt = .rational := by decide

theorem witness_NoTickAfterStop :
    ∀ e ∈ ([.op .tick, .op .rxByte, .op .stop] : List Event), e ≠ .op .start ∧ e ≠ .op .reset := by decide

/-- A run of one tick with an arrival before it. -/
theorem witness_GripperFollowsTheClosedForm :
    (gripping 0 1 true).cfg.numFmt = .rational ∧ ∃ t, EasingRun 1 (gripping 0 1 true) t :=
  ⟨rfl, _, .between (.arrive 0x10#8) rfl rfl rfl (.ticked rfl rfl (.done _))⟩

/-- A sequence that eases from 0 to 1, and one that starts at its target. -/
theorem witness_GripperConvergesWithoutOvershoot (p0 t : Value) :
    ∃ p : Nat → Value, p 0 = p0 ∧ ∀ n, p (n + 1) = easeStep (numRnd .rational) (p n) t :=
  ⟨fun n => (fun x => easeStep (numRnd .rational) x t)^[n] p0, rfl, fun n => Function.iterate_succ_apply' _ n p0⟩

theorem witness_GripperConverges_apart : (0 : Value) ≠ 1 := by norm_num

/-- A course of ticks only, from a gripper that is to go from 0 to 1. -/
def ticksOnly : Course := fun _ => .op .tick

theorem ticksOnly_stateAt (n : Nat) : ∃ x, stateAt ticksOnly (gripping 0 1 true) n = gripping x 1 true := by
  induction n with
  | zero => exact ⟨0, rfl⟩
  | succ n ih =>
    obtain ⟨x, hx⟩ := ih
    exact ⟨easeStep (numRnd .rational) x 1, by rw [stateAt_succ, hx]; rfl⟩

theorem witness_FairTicksBringTheGripperToItsTarget :
    (gripping 0 1 true).cfg.numFmt = .rational ∧ TickFair ticksOnly (gripping 0 1 true) ∧ (0 : Value) < 1 ∧
    ∀ m, 0 ≤ m → (stateAt ticksOnly (gripping 0 1 true) m).act.tickEn = true ∧
      (stateAt ticksOnly (gripping 0 1 true) m).act.gpTgt = 1 := by
  refine ⟨rfl, fun n _ => ⟨n, le_rfl, rfl⟩, by norm_num, fun m _ => ?_⟩
  obtain ⟨x, hx⟩ := ticksOnly_stateAt m
  rw [hx]
  exact ⟨rfl, rfl⟩

/-- An accept due on an edge on which a tick and a stop fall. -/
def edgeState : State :=
  { decoding .end2 4 true [0x03#8] with act := { base.act with gpTgt := 0, gpCur := 1 / 2, tickEn := true } }

theorem witness_ClockEdgeReadsTheOldTarget :
    edgeState.sched = [] ∧ edgeState.act.tickEn = true ∧ edgeState.dec.ds = .end2 ∧ edgeState.dec.e1ok = true ∧
    edgeState.rx = 0x03#8 :: [] ∧
    ({ tick := true, rx := true, encoder := some .transmit, control := some .start, reset := true } : Edge).reset = true :=
  ⟨rfl, rfl, rfl, rfl, rfl, rfl⟩

end Sys2Proof.Tests
end

section
/-! No instruction and no event stops the block (R190), so a run is a fold of `after` over its schedule; with that, the
finite runs and the infinite execution of R12 agree. -/

namespace Sys2Proof.Machine

/-! ## Every operation answers a next state -/

theorem rxRow_next (fits : Bool) (b : Byte) (f : State → State) (s : State) : ∃ t, rxRow fits b f s = .next t := by
  obtain ⟨_, -, -, h⟩ | h := rxRow_cases fits b f s <;> exact ⟨_, h⟩

theorem rxToken_next (tok : List Byte) (s : State) : ∃ t, rxToken tok s = .next t := by
  unfold rxToken
  split
  · exact rxTimes_next _ s
  · exact ⟨s, rfl⟩

theorem execPlainByte_next (b : Byte) (s : State) : ∃ t, execPlainByte b s = .next t := by
  unfold execPlainByte
  split
  · exact ⟨s, rfl⟩
  · exact rxToken_next _ s

theorem execRxByte_next (s : State) : ∃ t, execRxByte s = .next t := by
  cases hrx : s.rx with
  | nil => exact ⟨_, execRxByte_nil hrx⟩
  | cons b rest => exact ⟨_, execRxByte_cons hrx⟩

theorem execEncStart_next (p : Payload) (s : State) : ∃ t, execEncStart p s = .next t := by
  unfold execEncStart
  split <;> exact ⟨_, rfl⟩

theorem execTxByte_next (s : State) : ∃ t, execTxByte s = .next t := by
  by_cases h : s.enc.es = .idle
  · exact ⟨s, by simp [execTxByte, h]⟩
  · obtain ⟨_, _, ht⟩ := execTxByte_busy h
    exact ⟨_, ht⟩

theorem execTick_next (s : State) : ∃ t, execTick s = .next t := by
  unfold execTick
  split <;> exact ⟨_, rfl⟩

/-- Every instruction, in every state, answers a next state (R190). -/
theorem exec_next (i : Instr) (s : State) : ∃ t, exec i s = .next t := by
  cases i with
  | startMarker | endMarker | escapedEscape => exact rxToken_next _ s
  | plainByte b => exact execPlainByte_next b s
  | rxByte => exact execRxByte_next s
  | encStart p => exact execEncStart_next p s
  | txByte => exact execTxByte_next s
  | tick => exact execTick_next s
  | wireRecord | applyCmd | start | stop | reset | encode | toLogical | toWire => exact ⟨_, rfl⟩
  | rxHunt0Esc | rxHunt0Noise | rxHunt1Start | rxHunt1Esc | rxHunt1Noise | rxPayEsc | rxPayPlain | rxEscLiteral
  | rxEscAbort | rxEnd1 | rxEnd2Accept | rxEnd2Abort => exact rxRow_next _ _ _ s

/-- Every event, in every state, answers a next state. -/
theorem perform_next (e : Event) (s : State) : ∃ t, perform e s = .next t := by
  cases e with
  | arrive b => exact ⟨_, rfl⟩
  | byte | token | record | op =>
    simp only [perform]
    split
    · exact exec_next _ s
    · exact ⟨s, rfl⟩

/-- The state `after` names is the one the event answers. -/
theorem perform_eq_after (e : Event) (s : State) : perform e s = .next (after e s) := by
  obtain ⟨t, h⟩ := perform_next e s
  rw [after_of_next h, h]

/-! ## A run is a fold -/

/-- The events to come have no part in what an event does, and stay as they are. -/
theorem after_setSched (e : Event) (s : State) (es : List Event) : after e (s.setSched es) = (after e s).setSched es :=
  after_of_next (perform_setSched es (perform_eq_after e s))

/-- `play` replaces the schedule, so the one its starting state holds does not matter. -/
@[simp] theorem play_setSched (es us : List Event) (s : State) : play es (s.setSched us) = play es s := by
  rw [play, play, State.setSched_setSched]

/-- A run is its first event and then the rest of the run. -/
theorem play_cons_after (e : Event) (es : List Event) (s : State) : play (e :: es) s = play es (after e s) := by
  have h : perform e (s.setSched es) = .next ((after e s).setSched es) := by
    rw [perform_eq_after, after_setSched]
  rw [play_cons_next h rfl, play_setSched]

/-- A run is the fold of `after` over its events, with the schedule used up. -/
theorem play_eq_foldl (es : List Event) (s : State) :
    play es s = .next ((es.foldl (fun u e => after e u) s).setSched []) := by
  induction es generalizing s with
  | nil => exact play_nil s
  | cons e es ih => rw [play_cons_after, ih, List.foldl_cons]

/-- The state of an infinite execution is the fold of `after` over the events before that moment. -/
theorem stateAt_eq_foldl (c : Course) (s : State) (n : Nat) :
    stateAt c s n = (c.upTo n).foldl (fun u e => after e u) s := by
  induction n with
  | zero => rfl
  | succ n ih => rw [stateAt_succ, ih, Course.upTo_succ, List.foldl_append, List.foldl_cons, List.foldl_nil]

/-- Settles O54: the run of the first `n` events and the state at moment `n` are one fold, because no event stops the
block or reads the schedule. -/
theorem infiniteExecutionsExtendRuns : Obligations.InfiniteExecutionsExtendRuns := by
  intro c s n
  rw [play_eq_foldl, stateAt_eq_foldl]

end Sys2Proof.Machine
end

section
/-! What the decoder's operations may change (R41): the frame of `RX_BYTE`, any number of times. -/

namespace Sys2Proof.Machine

/-- The actuator registers after `APPLY` of the payload `p` (R132, R158). -/
def appliedAct (cfg : Config.Params) (p : Payload) (a : Actuators) : Actuators :=
  let cmd := toLogical (numRnd cfg.numFmt) p
  { a with
    dl := some cmd.left, dr := some cmd.right, ah := some cmd.h, av := some cmd.v
    gpTgt := gripperTarget cfg cmd.grab }

/-- What the decoder's operations leave alone, and how they may change the rest: `RX` loses bytes at its front, and the
actuator registers are as they were or those of an `APPLY`. -/
structure DecoderFrame (s t : State) : Prop where
  enc : t.enc = s.enc
  tx : t.tx = s.tx
  txPrior : t.txPrior = s.txPrior
  cfg : t.cfg = s.cfg
  sched : t.sched = s.sched
  rx : t.rx <:+ s.rx
  act : t.act = s.act ∨ ∃ p, t.act = appliedAct s.cfg p s.act

theorem DecoderFrame.refl (s : State) : DecoderFrame s s := ⟨rfl, rfl, rfl, rfl, rfl, List.suffix_refl _, .inl rfl⟩

theorem DecoderFrame.trans {s t u : State} (h : DecoderFrame s t) (h' : DecoderFrame t u) : DecoderFrame s u where
  enc := h'.enc.trans h.enc
  tx := h'.tx.trans h.tx
  txPrior := h'.txPrior.trans h.txPrior
  cfg := h'.cfg.trans h.cfg
  sched := h'.sched.trans h.sched
  rx := h'.rx.trans h.rx
  act := by
    obtain hu | ⟨p, hu⟩ := h'.act
    · rw [hu]; exact h.act
    · refine .inr ⟨p, ?_⟩
      rw [hu, h.cfg]
      obtain ht | ⟨q, ht⟩ := h.act
      · rw [ht]
      · rw [ht]; rfl

/-- An accept applies the payload it delivers (R132). -/
theorem accept_act (s : State) : (accept s).act = appliedAct s.cfg s.dec.pb s.act := rfl

theorem execRxByte_frame {s t : State} (h : execRxByte s = .next t) : DecoderFrame s t := by
  cases hrx : s.rx with
  | nil => rw [execRxByte_nil hrx] at h; cases h; exact .refl s
  | cons b rest =>
    have hsuf : rest <:+ s.rx := by rw [hrx]; exact List.suffix_cons b rest
    rw [execRxByte_cons hrx] at h
    cases h
    obtain ⟨-, -, -, hacc⟩ | hdec := rxEffect_cases b (s.setRx rest)
    · rw [hacc]; exact ⟨rfl, rfl, rfl, rfl, rfl, hsuf, .inr ⟨_, accept_act _⟩⟩
    · rw [hdec]; exact ⟨rfl, rfl, rfl, rfl, rfl, hsuf, .inl rfl⟩

theorem rxTimes_frame {n : Nat} {s t : State} (h : rxTimes n s = .next t) : DecoderFrame s t := by
  induction n generalizing s with
  | zero => cases h; exact .refl _
  | succ n ih =>
    obtain ⟨u, hu⟩ := execRxByte_next s
    rw [rxTimes, hu] at h
    exact (execRxByte_frame hu).trans (ih h)

end Sys2Proof.Machine
end

section
/-! The transition tables of R133 and R112 say what `RX_BYTE` and `TX_BYTE` do to the registers; `ENC_START` by the
encoder's state. -/

namespace Sys2Proof.Machine

/-- Storing a payload byte is a row of the transition table (R128). -/
theorem decStore_eq (c : Byte) (s : State) :
    decStore c s = s.setDec (if s.dec.idx = 4 then { s.dec with ds := .end1, pb := s.dec.pb.set 4 c }
      else { s.dec with ds := .pay, idx := s.dec.idx + 1, pb := s.dec.pb.set s.dec.idx c }) := by
  unfold decStore
  by_cases h : s.dec.idx = 4 <;> simp [h]

/-- Where the transition table delivers nothing, a received byte changes the decoder's registers as the table says. -/
theorem rxEffect_of_decStep_none {b : Byte} {s : State} (h : (decStep s.dec b).2 = none) :
    rxEffect b s = s.setDec (decStep s.dec b).1 := by
  cases hds : s.dec.ds with
  | hunt0 => rw [rxEffect_hunt0 b hds]; simp only [decStep, hds]; split <;> rfl
  | hunt1 =>
    rw [rxEffect_hunt1 b hds]; simp only [decStep, hds]
    split
    · rfl
    · split <;> rfl
  | pay =>
    rw [rxEffect_pay b hds, decStore_eq]; simp only [decStep, hds]
    split
    · rfl
    · split <;> simp [← hds]
  | esc =>
    rw [rxEffect_esc b hds, decStore_eq]; simp only [decStep, hds]
    split
    · split <;> rfl
    · rfl
  | end1 => rw [rxEffect_end1 b hds]; simp only [decStep, hds]; rfl
  | end2 =>
    rw [rxEffect_end2 b hds]
    by_cases hb : s.dec.e1ok = true ∧ b = 0x03#8
    · simp [decStep, hds, hb] at h
    · simp only [decStep, hds]; rw [if_neg hb, if_neg hb]; rfl

/-- The transition table delivers in one row only: END2 on 0x03 after a good first end byte. -/
theorem decStep_some {b : Byte} {d : Decoder} {p : Payload} (h : (decStep d b).2 = some p) :
    d.ds = .end2 ∧ d.e1ok = true ∧ b = 0x03#8 ∧ p = d.pb ∧ (decStep d b).1 = { d with ds := .hunt0 } := by
  cases hds : d.ds with
  | end2 =>
    by_cases hb : d.e1ok = true ∧ b = 0x03#8
    · simp only [decStep, hds, hb, and_self, if_true, Option.some.injEq] at h ⊢
      simp [h]
    · simp [decStep, hds, hb] at h
  | end1 => simp [decStep, hds] at h
  | hunt0 | hunt1 | pay | esc =>
    simp only [decStep, hds] at h
    repeat' split at h
    all_goals cases h

/-- Where the transition table delivers, a received byte is an accept. -/
theorem rxEffect_of_decStep_some {b : Byte} {s : State} {p : Payload} (h : (decStep s.dec b).2 = some p) :
    rxEffect b s = accept s := by
  obtain ⟨hds, he, rfl, -, -⟩ := decStep_some h
  exact rxEffect_accept hds he

/-- Moving on to the next payload byte is a row of the encoder's transition table (R108). -/
theorem encAdvance_eq (s : State) :
    encAdvance s = s.setEnc (if s.enc.eidx = 4 then { s.enc with es := .em0 }
      else { s.enc with es := .dat, eidx := s.enc.eidx + 1 }) := by
  unfold encAdvance setEs
  split <;> rfl

/-- `TX_BYTE` is the encoder's transition table (R112): the byte is pushed and the registers are the table's. -/
theorem execTxByte_of_encStep_some {s : State} {b : Byte} {e : Encoder} (h : encStep s.enc = some (b, e)) :
    execTxByte s = .next ((txPush b s).setEnc e) := by
  cases hes : s.enc.es with
  | idle => simp [encStep, hes] at h
  | sm0 | sm1 | em0 | em1 => simp only [encStep, hes] at h; cases h; simp [execTxByte, hes, setEs, txPush]
  | dat =>
    simp only [encStep, hes] at h
    simp only [execTxByte, hes, txData, encAdvance_eq]
    split at h
    next hb => cases h; rw [if_pos hb, hb]; rfl
    next hb => rw [if_neg hb]; split at h <;> cases h <;> simp_all [txPush]
  | dup =>
    simp only [encStep, hes] at h
    simp only [execTxByte, hes, encAdvance_eq]
    split at h <;> cases h <;> simp_all [txPush]

/-- `TX_BYTE` waits where the table has no row: the encoder is idle. -/
theorem execTxByte_of_idle {s : State} (h : s.enc.es = .idle) : execTxByte s = .next s := by
  simp only [execTxByte, h, wait_eq]

/-- The encoder's table has a row for every state but IDLE. -/
theorem encStep_eq_none {e : Encoder} : encStep e = none ↔ e.es = .idle := by
  cases hes : e.es <;> simp only [encStep, hes]
  all_goals repeat' split
  all_goals simp

/-- `TX_BYTE` on a busy encoder takes a row of the table. -/
theorem execTxByte_of_busy {s : State} (h : s.enc.es ≠ .idle) :
    ∃ b e, encStep s.enc = some (b, e) ∧ execTxByte s = .next ((txPush b s).setEnc e) := by
  obtain ⟨⟨b, e⟩, hstep⟩ := Option.ne_none_iff_exists'.1 (mt encStep_eq_none.1 h)
  exact ⟨b, e, hstep, execTxByte_of_encStep_some hstep⟩

theorem execEncStart_of_idle {p : Payload} {s : State} (h : s.enc.es = .idle) :
    execEncStart p s = .next (s.setEnc { es := .sm0, eidx := 0, epb := p }) := by
  simp only [execEncStart, h]

theorem execEncStart_of_busy {p : Payload} {s : State} (h : s.enc.es ≠ .idle) : execEncStart p s = .next s := by
  cases hes : s.enc.es with
  | idle => exact absurd hes h
  | sm0 | sm1 | dat | dup | em0 | em1 => simp only [execEncStart, hes]

end Sys2Proof.Machine
end

section
/-! Every operation of the decoder is a number of `RX_BYTE`s: a row of the opcode map is `RX_BYTE` in the state and on the
byte of the row (R79, R121), a wire token is one `RX_BYTE` a byte (R71). -/

namespace Sys2Proof.Machine

/-- A row of the opcode map is `RX_BYTE` where it is the row that the front byte selects, and waits elsewhere: it is
enough that the row is selected by its byte in the states it fits, and has the effect of that byte there. -/
theorem rxRow_eq_rxByte {i : Instr} {fits : Bool} {b : Byte} {f : State → State} {s : State}
    (hsel : fits = true → decodeByte s.dec.ds s.dec.e1ok b = i)
    (honly : ∀ c, decodeByte s.dec.ds s.dec.e1ok c = i → fits = true ∧ c = b)
    (heff : fits = true → ∀ rest, rxEffect b (s.setRx rest) = f (s.setRx rest)) :
    rxRow fits b f s = if currentRow s = some i then execRxByte s else .next s := by
  cases hrx : s.rx with
  | nil => simp [rxRow, currentRow, hrx]
  | cons c rest =>
    by_cases h : fits = true ∧ c = b
    · obtain ⟨hfit, rfl⟩ := h
      rw [rxRow_runs hrx hfit, execRxByte_cons hrx, heff hfit, if_pos]
      simp [currentRow, hrx, hsel hfit]
    · have hrow : currentRow s ≠ some i := fun hi => h (honly c (by simpa [currentRow, hrx] using hi))
      simp [rxRow, hrx, h, hrow]

/-- A row is selected by a byte at the front of `RX`. -/
theorem currentRow_some {i : Instr} {s : State} (h : currentRow s = some i) :
    ∃ b rest, s.rx = b :: rest ∧ decodeByte s.dec.ds s.dec.e1ok b = i := by
  unfold currentRow at h
  split at h
  next => cases h
  next b rest hrx => exact ⟨b, rest, hrx, Option.some.inj h⟩

/-- Each of the twelve rows is `RX_BYTE` where the front byte selects it, and waits elsewhere (R79, R121). -/
theorem exec_row {i : Instr} {ds : DecState} {e1ok : Bool} (h : i.source = some (.byte ds e1ok)) (s : State) :
    exec i s = if currentRow s = some i then execRxByte s else .next s := by
  cases i with
  | rxHunt0Esc | rxHunt0Noise | rxHunt1Start | rxHunt1Esc | rxHunt1Noise | rxPayEsc | rxPayPlain | rxEscLiteral
  | rxEscAbort | rxEnd1 | rxEnd2Accept =>
    refine rxRow_eq_rxByte (fun hfit => ?_) (fun c hc => ?_) (fun hfit rest => ?_)
    · simp_all [decodeByte]
    · unfold decodeByte at hc; repeat' split at hc
      all_goals cases hc
      all_goals simp_all
    · simp_all [rxEffect]
  | rxEnd2Abort b =>
    have hfits : (s.dec.ds == .end2 && !(s.dec.e1ok && b == Config.endByte)) = true ↔
        s.dec.ds = .end2 ∧ ¬ (s.dec.e1ok = true ∧ b = Config.endByte) := by simp [imp_iff_not_or]
    refine rxRow_eq_rxByte (fun hfit => ?_) (fun c hc => ?_) (fun hfit rest => ?_)
    · obtain ⟨hds, hb⟩ := hfits.1 hfit
      rw [hds]; exact if_neg hb
    · rw [hfits]; unfold decodeByte at hc; repeat' split at hc
      all_goals cases hc
      all_goals simp_all
    · obtain ⟨hds, hb⟩ := hfits.1 hfit
      exact (rxEffect_end2 b (s := s.setRx rest) hds).trans (if_neg hb)
  | startMarker | endMarker | escapedEscape | plainByte | wireRecord => simp [Instr.source] at h
  | rxByte | applyCmd | encStart | txByte | tick | start | stop | reset | encode | toLogical | toWire =>
    simp [Instr.source] at h

/-- A wire token is one `RX_BYTE` a byte where its bytes stand at the front of `RX`, and waits elsewhere (R71). -/
theorem exec_token {i : Instr} (h : i.source = some .token) (hwf : i.wf = true) (s : State) :
    exec i s = if (encode i).isPrefixOf s.rx then rxTimes (encode i).length s else .next s := by
  cases i with
  | startMarker | endMarker | escapedEscape => rfl
  | plainByte b => exact if_neg (by simpa [Instr.wf] using hwf)
  | _ => simp [Instr.source] at h

/-- How many `RX_BYTE`s an instruction of the decoder is in `s`. -/
def rxCount (i : Instr) (s : State) : Nat :=
  match i.source with
  | some .token => if i.wf = true ∧ (encode i).isPrefixOf s.rx then (encode i).length else 0
  | some (.byte _ _) => if currentRow s = some i then 1 else 0
  | some .record => 0
  | none => if i = .rxByte then 1 else 0

/-- Every instruction that writes the decoder, RESET apart, is `rxCount` times `RX_BYTE`. -/
theorem exec_decoder {i : Instr} (hw : Safety.writesDecoder i = true) (hr : i ≠ .reset) (s : State) :
    exec i s = rxTimes (rxCount i s) s := by
  have hone : rxTimes 1 s = execRxByte s := by
    obtain ⟨t, ht⟩ := execRxByte_next s
    simp only [rxTimes, ht]
  cases i with
  | startMarker | endMarker | escapedEscape =>
    rw [exec_token rfl rfl]; simp only [rxCount, Instr.source, Instr.wf, true_and]
    split <;> rfl
  | plainByte b =>
    by_cases hb : b = Config.escByte
    · simp [exec, execPlainByte, rxCount, Instr.source, Instr.wf, hb, rxTimes]
    · rw [exec_token rfl (by simpa [Instr.wf] using hb)]
      simp only [rxCount, Instr.source, Instr.wf, bne_iff_ne, ne_eq, hb, not_false_eq_true, true_and]
      split <;> rfl
  | rxHunt0Esc | rxHunt0Noise | rxHunt1Start | rxHunt1Esc | rxHunt1Noise | rxPayEsc | rxPayPlain | rxEscLiteral
  | rxEscAbort | rxEnd1 | rxEnd2Accept | rxEnd2Abort =>
    rw [exec_row rfl]; simp only [rxCount, Instr.source]
    split
    · exact hone.symm
    · rfl
  | rxByte => exact hone.symm
  | reset => exact absurd rfl hr
  | wireRecord | applyCmd | encStart | txByte | tick | start | stop | encode | toLogical | toWire =>
    simp [Safety.writesDecoder] at hw

/-- How many bytes an instruction takes is decided by `RX` and the row its front byte selects. -/
theorem rxCount_congr {s s' : State} (hrx : s'.rx = s.rx) (hrow : currentRow s' = currentRow s) (i : Instr) :
    rxCount i s' = rxCount i s := by
  simp only [rxCount, hrx, hrow]

end Sys2Proof.Machine
end

section
/-! What an event can do, and what a step can do: an instruction that runs is enabled (R88). -/

namespace Sys2Proof.Machine

theorem fetchFrom_byte (s : State) : fetchFrom (.byte s.dec.ds s.dec.e1ok) s.rx = currentRow s := by
  cases hrx : s.rx <;> simp [fetchFrom, decode, currentRow, hrx]

/-- A row is enabled when the front byte selects it (R88). -/
theorem enabled_row {i : Instr} {ds : DecState} {e1ok : Bool} (h : i.source = some (.byte ds e1ok)) (s : State) :
    enabled i s = (currentRow s == some i) := by
  cases i with
  | rxHunt0Esc | rxHunt0Noise | rxHunt1Start | rxHunt1Esc | rxHunt1Noise | rxPayEsc | rxPayPlain | rxEscLiteral
  | rxEscAbort | rxEnd1 | rxEnd2Accept | rxEnd2Abort => rfl
  | _ => simp [Instr.source] at h

/-- A token is enabled when it stands at the front of `RX` (R88). -/
theorem enabled_token {i : Instr} (h : i.source = some .token) (s : State) :
    enabled i s = (currentToken s == some i) := by
  cases i with
  | startMarker | endMarker | escapedEscape | plainByte => rfl
  | _ => simp [Instr.source] at h

theorem decodeByte_source (ds : DecState) (e1ok : Bool) (b : Byte) :
    ∃ ds' e1ok', (decodeByte ds e1ok b).source = some (.byte ds' e1ok') := by
  unfold decodeByte
  repeat' split
  all_goals exact ⟨_, _, rfl⟩

theorem decodeToken_source {bs rest : List Byte} {i : Instr} (h : decodeToken bs = .ok (i, rest)) :
    i.source = some .token := by
  unfold decodeToken decodeEscPair at h
  repeat' split at h
  all_goals cases h <;> rfl

/-- The row that the front byte selects is enabled (R88). -/
theorem enabled_of_currentRow {i : Instr} {s : State} (h : currentRow s = some i) : enabled i s = true := by
  obtain ⟨b, rest, -, rfl⟩ := currentRow_some h
  obtain ⟨ds', e1ok', hsrc⟩ := decodeByte_source s.dec.ds s.dec.e1ok b
  rw [enabled_row hsrc, h, beq_self_eq_true]

/-- The token at the front of `RX` is enabled (R88). -/
theorem enabled_of_currentToken {i : Instr} {s : State} (h : currentToken s = some i) : enabled i s = true := by
  have htok := h
  unfold currentToken at h
  split at h
  next j rest hdec =>
    cases h
    rw [enabled_token (decodeToken_source hdec), htok, beq_self_eq_true]
  next => cases h

/-- What an event makes the block run is enabled (R88). -/
theorem enabled_of_fetch {e : Event} {i : Instr} {s : State} (h : fetch e s = some i) : enabled i s = true := by
  cases e with
  | arrive b => cases h
  | byte => exact enabled_of_currentRow ((fetchFrom_byte s).symm.trans h)
  | token => exact enabled_of_currentToken h
  | record w => cases h; rfl
  | op j =>
    simp only [fetch] at h
    split at h
    next hj => cases h; exact hj
    next => cases h

/-- Everything an event can do: a byte arrives, nothing happens, or an enabled instruction runs. -/
theorem perform_cases {e : Event} {s t : State} (h : perform e s = .next t) :
    (∃ b, e = .arrive b ∧ t = arrival b s) ∨ t = s ∨
    ∃ i, fetch e s = some i ∧ enabled i s = true ∧ exec i s = .next t := by
  cases e with
  | arrive b => cases h; exact .inl ⟨b, rfl, rfl⟩
  | byte | token | record | op =>
    simp only [perform] at h
    split at h
    next i hi => exact .inr (.inr ⟨i, hi, enabled_of_fetch hi, h⟩)
    next => cases h; exact .inr (.inl rfl)

/-- Everything a step can do: nothing is scheduled, or the first event happens. -/
theorem step_inv {s t : State} (h : step s = .next t) :
    (s.sched = [] ∧ t = s) ∨ ∃ e es, s.sched = e :: es ∧ perform e (s.setSched es) = .next t := by
  cases hs : s.sched with
  | nil => rw [step_nil hs] at h; cases h; exact .inl ⟨rfl, rfl⟩
  | cons e es => rw [step_cons hs] at h; exact .inr ⟨e, es, rfl, h⟩

end Sys2Proof.Machine
end

section
/-! Who writes what (R41) and how the streams move (R35, R51, R52): one frame for each agent's operations. -/

namespace Sys2Proof.Machine
open Sys2Proof.Safety

/-! ## The decoder's instructions -/

/-- Every instruction that writes the decoder, RESET apart, keeps to the decoder's frame. -/
theorem exec_decoder_frame {i : Instr} {s t : State} (hw : writesDecoder i = true) (hr : i ≠ .reset)
    (h : exec i s = .next t) : DecoderFrame s t := by
  rw [exec_decoder hw hr] at h
  exact rxTimes_frame h

/-- A row other than the accepting one applies nothing (R158). -/
theorem exec_row_act {i : Instr} {ds : DecState} {e1ok : Bool} {s t : State} (hsrc : i.source = some (.byte ds e1ok))
    (hi : i ≠ .rxEnd2Accept) (h : exec i s = .next t) : t.act = s.act := by
  rw [exec_row hsrc] at h
  split at h
  next hrow =>
    obtain ⟨b, rest, hrx, hdec⟩ := currentRow_some hrow
    rw [execRxByte_cons hrx] at h
    cases h
    obtain ⟨hds, he, rfl, -⟩ | heff := rxEffect_cases b (s.setRx rest)
    · rw [State.setRx_dec] at hds he
      rw [hds, he] at hdec
      exact absurd hdec.symm hi
    · rw [heff]; rfl
  next => cases h; rfl

/-- An instruction of the decoder that is no writer of the target applies nothing. -/
theorem exec_decoder_act {i : Instr} {s t : State} (hw : writesDecoder i = true) (ht : writesTarget i = false)
    (h : exec i s = .next t) : t.act = s.act := by
  cases i with
  | rxHunt0Esc | rxHunt0Noise | rxHunt1Start | rxHunt1Esc | rxHunt1Noise | rxPayEsc | rxPayPlain | rxEscLiteral
  | rxEscAbort | rxEnd1 | rxEnd2Abort => exact exec_row_act rfl (by simp) h
  | startMarker | endMarker | escapedEscape | plainByte | rxEnd2Accept | rxByte | reset => cases ht
  | wireRecord | applyCmd | encStart | txByte | tick | start | stop | encode | toLogical | toWire => cases hw

/-! ## The encoder's frame -/

/-- What `ENC_START` and `TX_BYTE` do: encoder registers change, and at most one byte is sent. -/
theorem exec_encoder_frame {i : Instr} {s t : State} (hw : writesEncoder i = true) (hr : i ≠ .reset)
    (h : exec i s = .next t) : ∃ e sent, t = (s.setTx (s.tx ++ sent)).setEnc e ∧ sent.length ≤ 1 := by
  have hsame : ∃ e sent, s = (s.setTx (s.tx ++ sent)).setEnc e ∧ sent.length ≤ 1 :=
    ⟨s.enc, [], by rw [List.append_nil]; rfl, Nat.zero_le 1⟩
  cases i with
  | encStart p =>
    change execEncStart p s = _ at h
    by_cases hes : s.enc.es = .idle
    · rw [execEncStart_of_idle hes] at h; cases h
      exact ⟨_, [], by rw [List.append_nil]; rfl, Nat.zero_le 1⟩
    · rw [execEncStart_of_busy hes] at h; cases h; exact hsame
  | txByte =>
    change execTxByte s = _ at h
    by_cases hes : s.enc.es = .idle
    · rw [execTxByte_of_idle hes] at h; cases h; exact hsame
    · obtain ⟨b, e, hb⟩ := execTxByte_busy hes
      rw [hb] at h; cases h
      exact ⟨e, [b], rfl, le_rfl⟩
  | reset => exact absurd rfl hr
  | _ => simp [writesEncoder] at hw

/-! ## The access table and the streams -/

/-- Settles O9: the decoder's and the encoder's instructions by their frames, the others by their definition. -/
theorem registersAreWrittenOnlyByTheirOwners : Obligations.RegistersAreWrittenOnlyByTheirOwners := by
  intro i s t h
  by_cases hr : i = .reset
  · subst hr; cases h
    exact ⟨nofun, nofun, nofun, nofun, nofun, rfl, rfl⟩
  by_cases hd : writesDecoder i = true
  · have hf := exec_decoder_frame hd hr h
    refine ⟨fun hn => absurd hd (by simp [hn]), fun _ => ⟨hf.enc, hf.tx, hf.txPrior⟩, fun hn => ?_, fun _ => ?_,
      fun _ => ?_, hf.cfg, hf.sched⟩
    · simp [exec_decoder_act hd hn h]
    all_goals obtain ha | ⟨p, ha⟩ := hf.act
    all_goals simp [ha, appliedAct]
  by_cases he : writesEncoder i = true
  · obtain ⟨e, sent, rfl, -⟩ := exec_encoder_frame he hr h
    exact ⟨fun _ => ⟨rfl, rfl, rfl⟩, fun hn => absurd he (by simp [hn]), fun _ => ⟨rfl, rfl, rfl, rfl, rfl⟩,
      fun _ => rfl, fun _ => rfl, rfl, rfl⟩
  cases i with
  | wireRecord | applyCmd | start | stop | encode | toLogical | toWire =>
    cases h
    simp [applyCommand, writesTarget, writesTickEn]
  | tick =>
    simp only [exec, execTick] at h
    split at h
    all_goals cases h; simp [writesPosition]
  | encStart | txByte => exact absurd rfl he
  | reset => exact absurd rfl hr
  | _ => exact absurd rfl hd

/-- What an instruction may do to the streams: `RX` loses bytes at its front, and at most one byte is sent. -/
theorem exec_streams {i : Instr} {s t : State} (h : exec i s = .next t) :
    t.rx <:+ s.rx ∧ ∃ sent, wireOut t = wireOut s ++ sent ∧ sent.length ≤ 1 := by
  by_cases hr : i = .reset
  · subst hr; cases h
    exact ⟨List.suffix_refl _, [], by simp [wireOut], Nat.zero_le 1⟩
  obtain ⟨hdec, henc, -⟩ := registersAreWrittenOnlyByTheirOwners i s t h
  constructor
  · cases hd : writesDecoder i with
    | true => exact (exec_decoder_frame hd hr h).rx
    | false =>
      obtain ⟨-, hrx, -⟩ := hdec hd
      rw [hrx]
  · cases he : writesEncoder i with
    | true =>
      obtain ⟨e, sent, rfl, hlen⟩ := exec_encoder_frame he hr h
      exact ⟨sent, by simp [wireOut], hlen⟩
    | false =>
      obtain ⟨-, htx, hprior⟩ := henc he
      exact ⟨[], by simp [wireOut, htx, hprior], Nat.zero_le 1⟩

/-- Settles O10: only an arrival adds to `RX`, and every instruction respects the streams. -/
theorem streamsAreFirstInFirstOut : Obligations.StreamsAreFirstInFirstOut := by
  intro s t h
  obtain ⟨-, rfl⟩ | ⟨e, es, hs, he⟩ := step_inv h
  · exact ⟨⟨[], [], by simp, .inl rfl⟩, [], by simp, Nat.zero_le 1⟩
  obtain ⟨b, rfl, rfl⟩ | rfl | ⟨i, -, -, hi⟩ := perform_cases he
  · exact ⟨⟨[], [b], rfl, .inr ⟨b, es, hs, rfl⟩⟩, [], by simp [wireOut, arrival], Nat.zero_le 1⟩
  · exact ⟨⟨[], [], by simp, .inl rfl⟩, [], by simp [wireOut], Nat.zero_le 1⟩
  · obtain ⟨⟨taken, hrx⟩, hsent⟩ := exec_streams hi
    exact ⟨⟨taken, [], by simpa using hrx, .inl rfl⟩, hsent⟩

end Sys2Proof.Machine
end

section
/-! The block's invariant (R40): the state after reset has it and every step keeps it. -/

namespace Sys2Proof.Safety
open Sys2Proof.Machine

/-! ## What keeps each part -/

/-- The encoder enters DUP only from DAT, on a byte 0x10 (R107). -/
theorem encStep_dup {e e' : Encoder} {b : Byte} (h : encStep e = some (b, e')) (hdup : e'.es = .dup) :
    e'.epb.get e'.eidx = 0x10#8 := by
  cases hes : e.es with
  | dat =>
    simp only [encStep, hes] at h
    split at h
    next hb => cases h; exact hb
    next => split at h <;> cases h <;> simp at hdup
  | dup => simp only [encStep, hes] at h; split at h <;> cases h <;> simp at hdup
  | idle | sm0 | sm1 | em0 | em1 => simp only [encStep, hes] at h; cases h <;> cases hdup

theorem isAxisValue_axis (cfg : Config.Params) (b : Byte) : isAxisValue cfg (axis (numRnd cfg.numFmt) (sint8 b)) :=
  ⟨sint8 b, (sint8_bounds b).1, (sint8_bounds b).2, rfl⟩

theorem gripperTarget_isPosition (cfg : Config.Params) (grab : Bool) :
    gripperTarget cfg grab = cfg.posOpened ∨ gripperTarget cfg grab = cfg.posClosed := by
  cases grab
  · exact .inl rfl
  · exact .inr rfl

/-- One quarter of the way between two points of an interval is in the interval (R179). -/
theorem liesBetween_easeStep {a b cur tgt : Value} (hcur : liesBetween a b cur) (htgt : liesBetween a b tgt) :
    liesBetween a b (easeStep (numRnd .rational) cur tgt) := by
  obtain ⟨hlo, hhi⟩ := hcur
  obtain ⟨hlo', hhi'⟩ := htgt
  change min a b ≤ cur + (tgt - cur) / 4 ∧ cur + (tgt - cur) / 4 ≤ max a b
  constructor <;> linarith

/-- A position of the gripper lies between the two. -/
theorem liesBetween_of_position {a b x : Value} (h : x = a ∨ x = b) : liesBetween a b x := by
  obtain rfl | rfl := h
  · exact ⟨min_le_left _ _, le_max_left _ _⟩
  · exact ⟨min_le_right _ _, le_max_right _ _⟩

/-! ## The reset state and RESET -/

/-- A state at rest, with the gripper opened, has the invariant. -/
theorem blockInv_of_resetActuators {s : State} (henc : s.enc.es = .idle) (hact : s.act = resetActuators s.cfg) :
    BlockInv s where
  dup hdup := by simp [henc] at hdup
  target := .inl (by rw [hact]; rfl)
  levels := .inl (by rw [hact]; exact ⟨rfl, rfl, rfl, rfl⟩)
  gripper _ := by rw [hact]; exact liesBetween_of_position (.inl rfl)

/-- Settles O12: the reset state is at rest, with the gripper opened. -/
theorem resetStateMeetsTheInvariant : Obligations.ResetStateMeetsTheInvariant :=
  blockInv_of_resetActuators rfl rfl

/-! ## Every step keeps the invariant -/

/-- The invariant speaks of the encoder, the actuator registers and the run's constants only. -/
theorem BlockInv.congr {s t : State} (h : BlockInv s) (henc : t.enc = s.enc) (hact : t.act = s.act)
    (hcfg : t.cfg = s.cfg) : BlockInv t := by
  obtain ⟨hdup, htgt, hlev, hgrip⟩ := h
  constructor
  · simpa only [dupIsEscape, henc] using hdup
  · simpa only [targetIsPosition, hact, hcfg] using htgt
  · simpa only [levelsTogether, hact, hcfg] using hlev
  · simpa only [gripperBetween, hact, hcfg] using hgrip

theorem BlockInv.setEnc {s : State} (h : BlockInv s) {e : Encoder}
    (he : e.es = .dup → e.epb.get e.eidx = 0x10#8) : BlockInv (s.setEnc e) := ⟨he, h.target, h.levels, h.gripper⟩

/-- Applying a payload writes axis values and a position of the gripper (R151, R159). -/
theorem BlockInv.applied {s : State} (h : BlockInv s) (p : Payload) :
    BlockInv (s.setAct (appliedAct s.cfg p s.act)) where
  dup := h.dup
  target := gripperTarget_isPosition s.cfg _
  levels := .inr ⟨_, _, _, _, rfl, rfl, rfl, rfl, isAxisValue_axis _ _, isAxisValue_axis _ _, isAxisValue_axis _ _,
    isAxisValue_axis _ _⟩
  gripper := h.gripper

theorem BlockInv.decoderFrame {s t : State} (h : BlockInv s) (hf : DecoderFrame s t) : BlockInv t := by
  obtain hact | ⟨p, hact⟩ := hf.act
  · exact h.congr hf.enc hact hf.cfg
  · exact (h.applied p).congr hf.enc hact hf.cfg

theorem BlockInv.of_execEncStart {p : Payload} {s t : State} (h : BlockInv s) (hx : execEncStart p s = .next t) :
    BlockInv t := by
  by_cases hidle : s.enc.es = .idle
  · rw [execEncStart_of_idle hidle] at hx; cases hx
    exact h.setEnc nofun
  · rw [execEncStart_of_busy hidle] at hx; cases hx
    exact h

theorem BlockInv.of_execTxByte {s t : State} (h : BlockInv s) (hx : execTxByte s = .next t) : BlockInv t := by
  by_cases hidle : s.enc.es = .idle
  · rw [execTxByte_of_idle hidle] at hx; cases hx
    exact h
  · obtain ⟨b, e, hstep, ht⟩ := execTxByte_of_busy hidle
    rw [ht] at hx; cases hx
    exact (h.congr (t := txPush b s) rfl rfl rfl).setEnc (encStep_dup hstep)

/-- A tick keeps the gripper between the positions, since the target is one of them. -/
theorem BlockInv.tick {s : State} (h : BlockInv s) :
    BlockInv (s.setAct { s.act with gpCur := easeStep (numRnd s.cfg.numFmt) s.act.gpCur s.act.gpTgt }) where
  dup := h.dup
  target := h.target
  levels := h.levels
  gripper hfmt := by
    have hease := liesBetween_easeStep (h.gripper hfmt) (liesBetween_of_position h.target)
    rwa [← hfmt] at hease

/-- Every instruction that is enabled keeps the invariant. (`APPLY` of an arbitrary command, which is never enabled, would
not keep the levels axis values.) -/
theorem BlockInv.of_exec {i : Instr} {s t : State} (h : BlockInv s) (hen : enabled i s = true)
    (hx : exec i s = .next t) : BlockInv t := by
  by_cases hd : writesDecoder i = true ∧ i ≠ .reset
  · exact h.decoderFrame (exec_decoder_frame hd.1 hd.2 hx)
  · cases i with
    | reset => cases hx; exact blockInv_of_resetActuators rfl rfl
    | applyCmd cmd => cases hen
    | wireRecord | start | stop | encode | toLogical | toWire =>
      cases hx
      exact ⟨h.dup, h.target, h.levels, h.gripper⟩
    | tick => cases (if_pos hen).symm.trans hx; exact h.tick
    | encStart p => exact h.of_execEncStart hx
    | txByte => exact h.of_execTxByte hx
    | _ => simp [writesDecoder] at hd

/-- Settles O11: an event is an arrival, nothing, or an enabled instruction, and each keeps the invariant. -/
theorem stepKeepsTheInvariant : Obligations.StepKeepsTheInvariant := by
  intro s t h hstep
  obtain ⟨-, rfl⟩ | ⟨e, es, -, he⟩ := step_inv hstep
  · exact h
  have hes : BlockInv (s.setSched es) := h.congr rfl rfl rfl
  obtain ⟨b, -, rfl⟩ | rfl | ⟨i, -, hen, hx⟩ := perform_cases he
  · exact hes.congr rfl rfl rfl
  · exact hes
  · exact hes.of_exec hen hx

end Sys2Proof.Safety
end

section
/-! The scratch registers cannot be observed (R24, R39): a simulation between states that agree on everything but the
scratch registers, and on those too wherever they are still to be read. -/

namespace Sys2Proof.Machine
open Sys2Proof.Safety

/-! ## The decoder's scratch registers -/

/-- The decoders are in one sequencer state and agree on the registers it may still read: in PAY and ESC the index and
the payload bytes stored so far, in END1 the payload, in END2 the payload and the verdict on the first end byte. -/
def DecAgree (d d' : Decoder) : Prop :=
  d'.ds = d.ds ∧
  match d.ds with
  | .hunt0 | .hunt1 => True
  | .pay | .esc => d'.idx = d.idx ∧ ∀ j < d.idx, d'.pb.get j = d.pb.get j
  | .end1 => d'.pb = d.pb
  | .end2 => d'.pb = d.pb ∧ d'.e1ok = d.e1ok

theorem DecAgree.refl (d : Decoder) : DecAgree d d := by
  unfold DecAgree
  cases d.ds <;> simp

theorem DecAgree.of_hunt0 {d d' : Decoder} (h : d'.ds = d.ds) (hd : d.ds = .hunt0) : DecAgree d d' := by
  simp [DecAgree, h, hd]

/-- A decoder selects the row of the opcode map by registers on which agreeing decoders agree. -/
theorem DecAgree.decodeByte_eq {d d' : Decoder} (h : DecAgree d d') (b : Byte) :
    decodeByte d'.ds d'.e1ok b = decodeByte d.ds d.e1ok b := by
  obtain ⟨hds, hm⟩ := h
  cases hd : d.ds <;> simp_all [decodeByte]

/-- Storing the same byte at the same index keeps payloads equal below the index, and at it. -/
theorem payload_get_set_eq_of_le {p p' : Payload} {i : Fin 5} (h : ∀ j < i, p'.get j = p.get j) (c : Byte) {j : Fin 5}
    (hj : j ≤ i) : (p'.set i c).get j = (p.set i c).get j := by
  obtain rfl | hne := eq_or_ne j i
  · rw [Payload.get_set_self, Payload.get_set_self]
  · rw [Payload.get_set_other _ _ hne, Payload.get_set_other _ _ hne, h j (lt_of_le_of_ne hj hne)]

/-- Decoders that agree in PAY or ESC agree after storing a payload byte (R128), also when that completes the payload. -/
theorem DecAgree.store {d d' : Decoder} (hi : d'.idx = d.idx) (hp : ∀ j < d.idx, d'.pb.get j = d.pb.get j) (c : Byte) :
    DecAgree
      (if d.idx = 4 then { d with ds := .end1, pb := d.pb.set 4 c }
        else { d with ds := .pay, idx := d.idx + 1, pb := d.pb.set d.idx c })
      (if d'.idx = 4 then { d' with ds := .end1, pb := d'.pb.set 4 c }
        else { d' with ds := .pay, idx := d'.idx + 1, pb := d'.pb.set d'.idx c }) := by
  rw [hi]
  split
  next h4 =>
    rw [h4] at hp
    exact ⟨rfl, Payload.ext_get fun j => payload_get_set_eq_of_le hp c (Fin.le_last j)⟩
  next h4 =>
    refine ⟨rfl, rfl, fun j hj => payload_get_set_eq_of_le hp c ?_⟩
    change j < d.idx + 1 at hj
    omega

/-- One received byte: agreeing decoders deliver the same and agree afterwards. -/
theorem DecAgree.after_byte {d d' : Decoder} (h : DecAgree d d') (b : Byte) :
    DecAgree (decStep d b).1 (decStep d' b).1 ∧ (decStep d' b).2 = (decStep d b).2 := by
  obtain ⟨ds, idx, e1ok, pb⟩ := d
  obtain ⟨ds', idx', e1ok', pb'⟩ := d'
  obtain ⟨hds, hm⟩ := h
  change ds' = ds at hds
  subst hds
  cases ds' with
  | hunt0 => simp only [decStep]; split <;> exact ⟨⟨rfl, trivial⟩, rfl⟩
  | hunt1 =>
    simp only [decStep]
    split
    · exact ⟨⟨rfl, rfl, fun j hj => absurd hj (Fin.not_lt_zero j)⟩, rfl⟩
    · split <;> exact ⟨⟨rfl, trivial⟩, rfl⟩
  | pay =>
    obtain ⟨hi, hp⟩ := hm
    have hstore := DecAgree.store hi hp b
    simp only [decStep]
    split
    · exact ⟨⟨rfl, hi, hp⟩, rfl⟩
    · simp only [apply_ite Prod.fst, apply_ite Prod.snd, ite_self, and_true]
      exact hstore
  | esc =>
    obtain ⟨hi, hp⟩ := hm
    have hstore := DecAgree.store hi hp 0x10#8
    simp only [decStep]
    split
    · simp only [apply_ite Prod.fst, apply_ite Prod.snd, ite_self, and_true]
      exact hstore
    · exact ⟨⟨rfl, trivial⟩, rfl⟩
  | end1 => exact ⟨⟨rfl, hm, rfl⟩, rfl⟩
  | end2 =>
    obtain ⟨rfl, rfl⟩ : pb' = pb ∧ e1ok' = e1ok := hm
    simp only [decStep]
    split <;> exact ⟨⟨rfl, trivial⟩, rfl⟩

/-! ## The simulation -/

/-- The encoders are in one sequencer state, and a busy one agrees on every register: `ENC_START` has written them all. -/
def EncAgree (e e' : Encoder) : Prop := e'.es = e.es ∧ (e.es ≠ .idle → e' = e)

theorem EncAgree.refl (e : Encoder) : EncAgree e e := ⟨rfl, fun _ => rfl⟩

/-- The second state is the first with other decoder and encoder registers, which agree wherever they are still read. -/
def ScratchSim (s s' : State) : Prop :=
  ∃ d e, s' = (s.setDec d).setEnc e ∧ DecAgree s.dec d ∧ EncAgree s.enc e

theorem ScratchSim.intro {s : State} {d : Decoder} {e : Encoder} (hd : DecAgree s.dec d) (he : EncAgree s.enc e) :
    ScratchSim s ((s.setDec d).setEnc e) := ⟨d, e, rfl, hd, he⟩

theorem ScratchSim.refl (s : State) : ScratchSim s s := .intro (.refl s.dec) (.refl s.enc)

/-- States that agree but for the scratch registers are related while the decoder hunts and the encoder is idle. -/
theorem ScratchSim.of_agreeButScratch {s s' : State} (h : agreeButScratch s s') (hd : s.dec.ds = .hunt0)
    (he : s.enc.es = .idle) : ScratchSim s s' := by
  have hs' : s' = (s.setDec { s'.dec with ds := s.dec.ds }).setEnc { s'.enc with es := s.enc.es } := h
  rw [hs']
  exact .intro (.of_hunt0 rfl hd) ⟨rfl, fun hne => absurd he hne⟩

theorem ScratchSim.agree {s s' : State} (h : ScratchSim s s') : agreeButScratch s s' := by
  obtain ⟨d, e, rfl, ⟨hds, -⟩, hes, -⟩ := h
  simp [agreeButScratch, State.setDec, State.setEnc, ← hds, ← hes]

theorem ScratchSim.setSched {s s' : State} (h : ScratchSim s s') (es : List Event) :
    ScratchSim (s.setSched es) (s'.setSched es) := by
  obtain ⟨d, e, rfl, hd, he⟩ := h
  exact .intro (s := s.setSched es) hd he

theorem ScratchSim.rx_eq {s s' : State} (h : ScratchSim s s') : s'.rx = s.rx := by
  obtain ⟨d, e, rfl, -, -⟩ := h
  rfl

theorem ScratchSim.currentRow_eq {s s' : State} (h : ScratchSim s s') : currentRow s' = currentRow s := by
  obtain ⟨d, e, rfl, hd, -⟩ := h
  cases hrx : s.rx <;> simp [currentRow, hrx, hd.decodeByte_eq]

theorem ScratchSim.enabled_eq {s s' : State} (h : ScratchSim s s') (i : Instr) : enabled i s' = enabled i s := by
  have hrow := h.currentRow_eq
  obtain ⟨d, e, rfl, -, hes, -⟩ := h
  cases i <;> simp [enabled, hrow, currentToken, hes]

/-- Related states fetch the same instruction. -/
theorem ScratchSim.fetch_eq {s s' : State} (h : ScratchSim s s') (e : Event) : fetch e s' = fetch e s := by
  cases e with
  | arrive | record => rfl
  | byte => exact (fetchFrom_byte s').trans (h.currentRow_eq.trans (fetchFrom_byte s).symm)
  | token => simp only [fetch, h.rx_eq]
  | op i => simp only [fetch, h.enabled_eq i]

/-- Related states, when an operation is run in both, answer related states. -/
def KeepsScratchSim (f : State → Answer) : Prop :=
  ∀ s s', ScratchSim s s' → ∃ t t', f s = .next t ∧ f s' = .next t' ∧ ScratchSim t t'

/-- An operation that neither reads nor writes the decoder's and encoder's registers keeps the relation. -/
theorem keepsScratchSim_of_comm {f : State → State} (hdec : ∀ s, (f s).dec = s.dec) (henc : ∀ s, (f s).enc = s.enc)
    (hf : ∀ s d e, f ((s.setDec d).setEnc e) = ((f s).setDec d).setEnc e) : KeepsScratchSim fun s => .next (f s) := by
  rintro s _ ⟨d, e, rfl, hd, he⟩
  refine ⟨_, _, rfl, rfl, ?_⟩
  rw [hf]
  exact .intro (by rwa [hdec]) (by rwa [henc])

/-- An accept reads no decoder register but the payload, and no encoder register. -/
theorem accept_setDec_setEnc {s : State} {d : Decoder} {e : Encoder} (h : d.pb = s.dec.pb) :
    accept ((s.setDec d).setEnc e) = ((accept s).setDec { d with ds := .hunt0 }).setEnc e := by
  obtain ⟨_, _, _, _⟩ := d
  subst h
  rfl

/-- A received byte in related states: the decoders agree afterwards, and a delivery is of the same payload. -/
theorem rxEffect_scratchSim (b : Byte) {s s' : State} (h : ScratchSim s s') :
    ScratchSim (rxEffect b s) (rxEffect b s') := by
  obtain ⟨d, e, rfl, hd, he⟩ := h
  obtain ⟨hstep, hout⟩ := hd.after_byte b
  cases hp : (decStep s.dec b).2 with
  | none =>
    rw [rxEffect_of_decStep_none hp, rxEffect_of_decStep_none (hout.trans hp)]
    exact .intro (s := s.setDec (decStep s.dec b).1) hstep he
  | some p =>
    obtain ⟨-, -, -, hpb, -⟩ := decStep_some hp
    obtain ⟨-, -, -, hpb', -⟩ := decStep_some (hout.trans hp)
    rw [rxEffect_of_decStep_some hp, rxEffect_of_decStep_some (s := (s.setDec d).setEnc e) (hout.trans hp)]
    rw [accept_setDec_setEnc (hpb'.symm.trans hpb)]
    exact .intro (s := accept s) (.of_hunt0 rfl rfl) he

theorem execRxByte_keepsScratchSim : KeepsScratchSim execRxByte := by
  intro s s' h
  cases hs : s.rx with
  | nil => exact ⟨s, s', execRxByte_nil hs, execRxByte_nil (h.rx_eq.trans hs), h⟩
  | cons b rest =>
    refine ⟨_, _, execRxByte_cons hs, execRxByte_cons (h.rx_eq.trans hs), rxEffect_scratchSim b ?_⟩
    obtain ⟨d, e, rfl, hd, he⟩ := h
    exact .intro (s := s.setRx rest) hd he

theorem rxTimes_keepsScratchSim (n : Nat) : KeepsScratchSim (rxTimes n) := by
  induction n with
  | zero => exact fun s s' h => ⟨s, s', rfl, rfl, h⟩
  | succ n ih =>
    intro s s' h
    obtain ⟨t, t', ht, ht', hsim⟩ := execRxByte_keepsScratchSim s s' h
    simp only [rxTimes, ht, ht']
    exact ih t t' hsim

theorem execTxByte_keepsScratchSim : KeepsScratchSim execTxByte := by
  rintro s _ ⟨d, e, rfl, hd, hes, heq⟩
  by_cases hidle : s.enc.es = .idle
  · exact ⟨s, _, execTxByte_of_idle hidle, execTxByte_of_idle (hes.trans hidle), .intro hd ⟨hes, heq⟩⟩
  · obtain rfl := heq hidle
    obtain ⟨b, e', hstep, ht⟩ := execTxByte_of_busy hidle
    exact ⟨_, _, ht, execTxByte_of_encStep_some (s := s.setDec d) hstep,
      .intro (s := (txPush b s).setEnc e') hd (.refl e')⟩

theorem execEncStart_keepsScratchSim (p : Payload) : KeepsScratchSim (execEncStart p) := by
  rintro s _ ⟨d, e, rfl, hd, hes, heq⟩
  by_cases hidle : s.enc.es = .idle
  · exact ⟨_, _, execEncStart_of_idle hidle, execEncStart_of_idle (hes.trans hidle),
      .intro (s := s.setEnc ⟨.sm0, 0, p⟩) hd (.refl _)⟩
  · obtain rfl := heq hidle
    exact ⟨s, _, execEncStart_of_busy hidle, execEncStart_of_busy hidle, .intro hd (.refl _)⟩

theorem execTick_keepsScratchSim : KeepsScratchSim execTick := by
  rintro s _ ⟨d, e, rfl, hd, he⟩
  by_cases hon : s.act.tickEn = true
  · exact ⟨_, _, if_pos hon, if_pos hon, .intro (s := s.setAct _) hd he⟩
  · exact ⟨_, _, if_neg hon, if_neg hon, .intro hd he⟩

/-- RESET draws the same free values in both states, and so makes them equal (R220). -/
theorem execReset_keepsScratchSim : KeepsScratchSim execReset := by
  rintro s _ ⟨d, e, rfl, -, -⟩
  exact ⟨_, _, rfl, rfl, .refl _⟩

/-- Every instruction keeps the relation. -/
theorem exec_keepsScratchSim (i : Instr) : KeepsScratchSim (exec i) := by
  by_cases hw : writesDecoder i = true ∧ i ≠ .reset
  · intro s s' h
    rw [exec_decoder hw.1 hw.2, exec_decoder hw.1 hw.2, rxCount_congr h.rx_eq h.currentRow_eq]
    exact rxTimes_keepsScratchSim _ s s' h
  · cases i with
    | reset => exact execReset_keepsScratchSim
    | encStart p => exact execEncStart_keepsScratchSim p
    | txByte => exact execTxByte_keepsScratchSim
    | tick => exact execTick_keepsScratchSim
    | wireRecord | applyCmd | start | stop | encode | toLogical | toWire =>
      exact keepsScratchSim_of_comm (fun _ => rfl) (fun _ => rfl) (fun _ _ _ => rfl)
    | _ => simp [writesDecoder] at hw

theorem perform_keepsScratchSim (e : Event) : KeepsScratchSim (perform e) := by
  cases e with
  | arrive b =>
    rintro s _ ⟨d, e, rfl, hd, he⟩
    exact ⟨_, _, rfl, rfl, .intro (s := arrival b s) hd he⟩
  | byte | token | record | op =>
    intro s s' h
    simp only [perform, h.fetch_eq]
    split
    · exact exec_keepsScratchSim _ s s' h
    · exact ⟨s, s', rfl, rfl, h⟩

/-- One event in both of two related states. -/
theorem ScratchSim.after {s s' : State} (h : ScratchSim s s') (e : Event) : ScratchSim (after e s) (after e s') := by
  obtain ⟨t, t', ht, ht', hsim⟩ := perform_keepsScratchSim e s s' h
  rwa [after_of_next ht, after_of_next ht']

/-- Settles O28, by a simulation: related states fetch the same, answer related states to every event, and so stay
related over every schedule. -/
theorem scratchRegistersAreUnobservable : Obligations.ScratchRegistersAreUnobservable := by
  intro s s' es hagree hds hes
  refine ⟨_, _, play_eq_foldl es s, play_eq_foldl es s', (ScratchSim.setSched ?_ []).agree⟩
  have hsim := ScratchSim.of_agreeButScratch hagree hds hes
  clear hagree hds hes
  induction es generalizing s s' with
  | nil => exact hsim
  | cons e es ih => exact ih _ _ (hsim.after e)

end Sys2Proof.Machine
end

section
/-! Decoding and encoding agree (R71, R76, R79, R91): for each of the three kinds of encoded thing, what is written is
read back, and what is read was written. -/

namespace Sys2Proof

/-! ## What is encoded is read back -/

/-- A byte 0x10 and its partner make the token (R71). -/
theorem decodeToken_esc_cons (c : Byte) (rest : List Byte) :
    decodeToken (Config.escByte :: c :: rest) = (decodeEscPair c).map fun i => (i, rest) := rfl

/-- Any other byte is a token of its own (R71). -/
theorem decodeToken_plain_cons {b : Byte} (hb : b ≠ Config.escByte) (rest : List Byte) :
    decodeToken (b :: rest) = .ok (.plainByte b, rest) := if_neg hb

/-- A well-formed row of the opcode map is the row that its byte selects in the state it is read in (R79). -/
theorem decodeByte_encode {i : Instr} {ds : DecState} {e1ok : Bool} (hsrc : i.source = some (.byte ds e1ok))
    (hwf : i.wf = true) : ∃ b, encode i = [b] ∧ decodeByte ds e1ok b = i := by
  cases i with
  | rxHunt0Esc | rxHunt1Start | rxHunt1Esc | rxPayEsc | rxEscLiteral | rxEnd1 | rxEnd2Accept | rxEnd2Abort =>
    cases hsrc; exact ⟨_, rfl, rfl⟩
  | rxHunt0Noise b | rxPayPlain b | rxEscAbort b =>
    cases hsrc; exact ⟨b, rfl, if_neg (bne_iff_ne.1 hwf)⟩
  | rxHunt1Noise b =>
    cases hsrc
    obtain ⟨hstart, hesc⟩ := Bool.and_eq_true_iff.1 hwf
    exact ⟨b, rfl, (if_neg (bne_iff_ne.1 hstart)).trans (if_neg (bne_iff_ne.1 hesc))⟩
  | _ => simp [Instr.source] at hsrc

/-- A well-formed wire token is read back from its bytes (R71). -/
theorem decodeToken_encode {i : Instr} (hsrc : i.source = some .token) (hwf : i.wf = true) (rest : List Byte) :
    decodeToken (encode i ++ rest) = .ok (i, rest) := by
  cases i with
  | startMarker | endMarker | escapedEscape => rfl
  | plainByte b => exact decodeToken_plain_cons (bne_iff_ne.1 hwf) rest
  | _ => simp [Instr.source] at hsrc

/-- A record whose fields fit is read back from its bytes (R76, R77). -/
theorem decodeRecord_encode {l r h v : Int} {g : Nat} (hwf : (Instr.wireRecord l r h v g).wf = true) :
    decodeRecord ⟨byteOfSint8 l, byteOfSint8 r, byteOfSint8 h, byteOfSint8 v, BitVec.ofNat 8 g⟩ =
      .wireRecord l r h v g := by
  simp only [Instr.wf, Bool.and_eq_true, decide_eq_true_eq] at hwf
  obtain ⟨⟨⟨⟨hl, hr⟩, hh⟩, hv⟩, hg⟩ := hwf
  have hgrab : uint8 (BitVec.ofNat 8 g) = g := Nat.mod_eq_of_lt (Nat.lt_succ_of_le hg)
  simp only [decodeRecord, sint8_byteOfSint8 hl, sint8_byteOfSint8 hr, sint8_byteOfSint8 hh, sint8_byteOfSint8 hv,
    hgrab]

/-- Settles O1, by the kind of thing the instruction's bytes are read as. -/
theorem everyEncodedInstructionDecodesBack : Obligations.EveryEncodedInstructionDecodesBack := by
  intro i src rest hwf hsrc
  cases src with
  | byte ds e1ok =>
    obtain ⟨b, hb, hdec⟩ := decodeByte_encode hsrc hwf
    rw [hb, ← hdec]
    rfl
  | token => exact decodeToken_encode hsrc hwf rest
  | record =>
    cases i with
    | wireRecord l r h v g =>
      change Except.ok (decodeRecord _, rest) = _
      rw [decodeRecord_encode hwf]
    | _ => simp [Instr.source] at hsrc

/-! ## What is read was written -/

/-- The row that a byte selects is well formed and stands for that byte (R79). -/
theorem wf_encode_decodeByte (ds : DecState) (e1ok : Bool) (b : Byte) :
    (decodeByte ds e1ok b).wf = true ∧ encode (decodeByte ds e1ok b) = [b] := by
  cases ds <;> simp only [decodeByte]
  case hunt1 =>
    split
    next hb => exact ⟨rfl, by rw [hb]; rfl⟩
    next hstart =>
      split
      next hb => exact ⟨rfl, by rw [hb]; rfl⟩
      next hesc => exact ⟨by simpa [Instr.wf] using ⟨hstart, hesc⟩, rfl⟩
  case end1 => exact ⟨rfl, rfl⟩
  case end2 =>
    split
    next hb => exact ⟨rfl, by rw [hb.2]; rfl⟩
    next => exact ⟨rfl, rfl⟩
  all_goals
    split
    next hb => exact ⟨rfl, by rw [hb]; rfl⟩
    next hb => exact ⟨bne_iff_ne.2 hb, rfl⟩

/-- The token that 0x10 and a byte make stands for these two bytes (R71). -/
theorem wf_encode_of_decodeEscPair {c : Byte} {i : Instr} (h : decodeEscPair c = .ok i) :
    i.wf = true ∧ encode i = [Config.escByte, c] := by
  unfold decodeEscPair at h
  repeat' split at h
  all_goals cases h
  all_goals subst_vars; exact ⟨rfl, rfl⟩

/-- The token at the front of a stream is well formed and stands for the bytes taken (R71). -/
theorem wf_encode_of_decodeToken {bs rest : List Byte} {i : Instr} (h : decodeToken bs = .ok (i, rest)) :
    i.wf = true ∧ bs = encode i ++ rest := by
  match bs with
  | [] => cases h
  | b :: bs =>
    by_cases hb : b = Config.escByte
    · subst hb
      match bs with
      | [] => cases h
      | c :: bs =>
        rw [decodeToken_esc_cons] at h
        cases hpair : decodeEscPair c with
        | error => rw [hpair] at h; cases h
        | ok j =>
          rw [hpair] at h; cases h
          obtain ⟨hwf, henc⟩ := wf_encode_of_decodeEscPair hpair
          exact ⟨hwf, by rw [henc]; rfl⟩
    · rw [decodeToken_plain_cons hb] at h; cases h
      exact ⟨bne_iff_ne.2 hb, rfl⟩

/-- The fields of a record fit, and they stand for its five bytes (R76, R77). -/
theorem wf_encode_decodeRecord (p : Payload) :
    (decodeRecord p).wf = true ∧ encode (decodeRecord p) = p.bytes := by
  constructor
  · have hgrab : uint8 p.b4 ≤ 255 := Nat.le_of_lt_succ p.b4.isLt
    simp [decodeRecord, Instr.wf, sint8_bounds, hgrab]
  · simp [decodeRecord, encode, byteOfSint8_sint8, uint8, Payload.bytes]

/-- Settles O2, by what the bytes are read as. -/
theorem decodedBytesAreTheInstructionsEncoding : Obligations.DecodedBytesAreTheInstructionsEncoding := by
  intro src bs rest i h
  cases src with
  | byte ds e1ok =>
    cases bs with
    | nil => cases h
    | cons b bs =>
      cases h
      obtain ⟨hwf, henc⟩ := wf_encode_decodeByte ds e1ok b
      exact ⟨hwf, by rw [henc]; rfl⟩
  | token => exact wf_encode_of_decodeToken h
  | record =>
    simp only [decode] at h
    split at h
    next a b c d e bs =>
      cases h
      obtain ⟨hwf, henc⟩ := wf_encode_decodeRecord ⟨a, b, c, d, e⟩
      exact ⟨hwf, by rw [henc]; rfl⟩
    next => cases h

/-! ## Words written out -/

/-- Settles O3: each word is evaluated. -/
theorem writtenWordsDecode : Obligations.WrittenWordsDecode := by
  unfold Obligations.WrittenWordsDecode
  decide

/-! ## The opcode map against its table (R79, R91) -/

section
variable (m : String) (state : DecState) (p : Byte) (n : Nat) (needsE1ok : Bool) (ds : DecState) (e1ok : Bool) (b : Byte)

/-- A row with a full mask matches the one byte it names. -/
theorem matchesByte_fullMask : (RxRow.mk m state p 0xFF#8 n needsE1ok).matchesByte ds e1ok b =
    (state == ds && b == p && (!needsE1ok || e1ok)) := by
  have hb : b &&& 0xFF#8 = b := BitVec.and_allOnes
  simp only [RxRow.matchesByte, hb]

/-- A row with an empty mask matches every byte. -/
theorem matchesByte_emptyMask : (RxRow.mk m state 0x00#8 0x00#8 n needsE1ok).matchesByte ds e1ok b =
    (state == ds && (!needsE1ok || e1ok)) := by
  have hb : b &&& 0x00#8 = 0x00#8 := BitVec.and_zero
  simp only [RxRow.matchesByte, hb, beq_self_eq_true, Bool.and_true]

end

/-- The first row of the list has the mnemonic `m`, and every other row a higher priority number. -/
def LedBy (m : String) : List RxRow → Prop
  | [] => False
  | r :: others => r.mnemonic = m ∧ ∀ r' ∈ others, r.priority < r'.priority

/-- The rows that match are led by the one the decoder takes: by the decoder state and the byte's class in it. -/
theorem matchingRows_ledBy (ds : DecState) (e1ok : Bool) (b : Byte) :
    LedBy (decodeByte ds e1ok b).mnemonic (rxRows.filter (·.matchesByte ds e1ok b)) := by
  simp only [rxRows, List.cons_append, List.nil_append, List.filter_cons, matchesByte_fullMask, matchesByte_emptyMask,
    decodeByte]
  cases ds with
  | hunt0 | pay | esc => by_cases hb : b = 0x10#8 <;> simp [LedBy, Instr.mnemonic, hb]
  | hunt1 =>
    by_cases hstart : b = 0x02#8
    · simp [LedBy, Instr.mnemonic, hstart]
    · by_cases hesc : b = 0x10#8 <;> simp [LedBy, Instr.mnemonic, hstart, hesc]
  | end1 => simp [LedBy, Instr.mnemonic]
  | end2 => by_cases hb : b = 0x03#8 <;> cases e1ok <;> simp [LedBy, Instr.mnemonic, hb]

/-- Settles O4: the row that leads the matching rows is the only one of the lowest priority number. -/
theorem receivedByteSelectsItsTableRow : Obligations.ReceivedByteSelectsItsTableRow := by
  intro ds e1ok b
  have hled := matchingRows_ledBy ds e1ok b
  cases hrows : rxRows.filter (·.matchesByte ds e1ok b) with
  | nil => rw [hrows] at hled; exact hled.elim
  | cons r others =>
    rw [hrows] at hled
    obtain ⟨hname, hprio⟩ := hled
    have hmem (r' : RxRow) : r' ∈ r :: others ↔ r' ∈ rxRows ∧ r'.matchesByte ds e1ok b = true := by
      rw [← hrows, List.mem_filter]
    obtain ⟨hr, hmatch⟩ := (hmem r).1 List.mem_cons_self
    refine ⟨r, hr, hname, hmatch, fun r' hr' hmatch' hne => hprio r' ?_⟩
    exact (List.mem_cons.1 ((hmem r').2 ⟨hr', hmatch'⟩)).resolve_left hne

/-! ## The record (R76) -/

theorem toNat_append_byte {n : Nat} (x : BitVec n) (b : Byte) : (x ++ b).toNat = x.toNat * 2 ^ 8 + b.toNat := by
  rw [BitVec.toNat_append, ← Nat.shiftLeft_add_eq_or_of_lt b.isLt, Nat.shiftLeft_eq]

theorem wordOfPayload_toNat (p : Payload) : (wordOfPayload p).toNat =
    p.b0.toNat * 2 ^ 32 + p.b1.toNat * 2 ^ 24 + p.b2.toNat * 2 ^ 16 + p.b3.toNat * 2 ^ 8 + p.b4.toNat := by
  simp only [wordOfPayload, toNat_append_byte]
  omega

/-- A byte above the last one of a string is a byte of the string without it. -/
theorem extractLsb'_append_byte {n : Nat} (x : BitVec n) (b : Byte) (k : Nat) :
    (x ++ b).extractLsb' (k + 8) 8 = x.extractLsb' k 8 := by
  rw [BitVec.extractLsb'_append_eq_of_le (Nat.le_add_left 8 k), Nat.add_sub_cancel]

theorem payloadOfWord_wordOfPayload (p : Payload) : payloadOfWord (wordOfPayload p) = p := by
  obtain ⟨b0, b1, b2, b3, b4⟩ := p
  simp only [payloadOfWord, wordOfPayload, Payload.mk.injEq]
  have above {n : Nat} (x : BitVec n) := extractLsb'_append_byte x
  have last {n : Nat} (x : BitVec n) (b : Byte) : (x ++ b).extractLsb' 0 8 = b := BitVec.extractLsb'_append_eq_right
  refine ⟨?_, ?_, ?_, ?_, last _ b4⟩
  · exact (above _ b4 24).trans ((above _ b3 16).trans ((above _ b2 8).trans BitVec.extractLsb'_append_eq_left))
  · exact (above _ b4 16).trans ((above _ b3 8).trans ((above _ b2 0).trans (last b0 b1)))
  · exact (above _ b4 8).trans ((above _ b3 0).trans (last _ b2))
  · exact (above _ b4 0).trans (last _ b3)

theorem wordOfPayload_payloadOfWord (w : BitVec 40) : wordOfPayload (payloadOfWord w) = w := by
  simp only [wordOfPayload, payloadOfWord, BitVec.extractLsb'_append_extractLsb'_eq_extractLsb']
  exact BitVec.extractLsb'_eq_self

/-- Settles O5: the word's number in base 256, its bytes one by one, and the record's fields by R9. -/
theorem recordWordLayout : Obligations.RecordWordLayout := by
  refine ⟨wordOfPayload_toNat, payloadOfWord_wordOfPayload, wordOfPayload_payloadOfWord, fun p => ?_⟩
  simp only [← sint8_eq_toInt]
  rfl

end Sys2Proof
end

section
/-! A step runs what its event fetches (R58, R88), what is not enabled waits, and the pure functions return their
values (R100, R150, R155). -/

namespace Sys2Proof.Machine

/-! ## Fetching -/

theorem fetchFrom_ok {src : Source} {bs rest : List Byte} {i : Instr} (h : decode src bs = .ok (i, rest)) :
    fetchFrom src bs = some i := by
  simp only [fetchFrom, h]

/-- An event runs what it fetches. -/
theorem perform_fetch {e : Event} {i : Instr} {s : State} (h : fetch e s = some i) : perform e s = exec i s := by
  cases e with
  | arrive b => cases h
  | byte | token | record | op => simp only [perform, h]

/-- Settles O6: a step performs its event, and an event runs what it fetches. -/
theorem stepRunsTheDecodedInstruction : Obligations.StepRunsTheDecodedInstruction := by
  intro s es
  have hrun {e : Event} {i : Instr} (hs : s.sched = e :: es) (h : fetch e (s.setSched es) = some i) :
      step s = exec i (s.setSched es) := (step_cons hs).trans (perform_fetch h)
  exact ⟨fun i rest hs h => hrun hs (fetchFrom_ok h), fun i rest hs h => hrun hs (fetchFrom_ok h),
    fun w i rest hs h => hrun hs (fetchFrom_ok h), fun i hs h => (step_cons hs).trans (perform_enabled h),
    fun b hs => step_cons hs, step_nil⟩

/-! ## Operations that are not enabled -/

/-- A wire token that stands at the front of `RX` is the one the decoder finds there (R71). -/
theorem currentToken_of_front {i : Instr} (hsrc : i.source = some .token) (hwf : i.wf = true) {s : State}
    {rest : List Byte} (hrx : s.rx = encode i ++ rest) : currentToken s = some i := by
  rw [currentToken, hrx, decodeToken_encode hsrc hwf rest]

/-- A token that no stream stands for does nothing (R71). -/
theorem exec_illFormed_token {i : Instr} (hsrc : i.source = some .token) (hwf : i.wf = false) (s : State) :
    exec i s = .next s := by
  cases i with
  | startMarker | endMarker | escapedEscape => cases hwf
  | plainByte b => exact if_pos (by simpa [Instr.wf] using hwf)
  | _ => simp [Instr.source] at hsrc

/-- A token that does not stand at the front of `RX` waits (R71). -/
theorem exec_token_of_not_enabled {i : Instr} (hsrc : i.source = some .token) {s : State} (h : enabled i s = false) :
    exec i s = .next s := by
  cases hwf : i.wf with
  | false => exact exec_illFormed_token hsrc hwf s
  | true =>
    rw [exec_token hsrc hwf, if_neg]
    intro hpre
    obtain ⟨rest, hrx⟩ := List.isPrefixOf_iff_prefix.1 hpre
    rw [enabled_token hsrc, currentToken_of_front hsrc hwf hrx.symm, beq_self_eq_true] at h
    cases h

/-- A row that the front byte does not select waits (R79). -/
theorem exec_row_of_not_enabled {i : Instr} {ds : DecState} {e1ok : Bool} (hsrc : i.source = some (.byte ds e1ok))
    {s : State} (h : enabled i s = false) : exec i s = .next s := by
  rw [enabled_row hsrc, beq_eq_false_iff_ne] at h
  rw [exec_row hsrc, if_neg h]

/-- Settles O8: what has an encoding waits by its kind, and each of the other operations by its own condition. -/
theorem operationNotEnabledChangesNothing : Obligations.OperationNotEnabledChangesNothing := by
  intro i s happly h
  cases i with
  | startMarker | endMarker | escapedEscape | plainByte => exact exec_token_of_not_enabled rfl h
  | rxHunt0Esc | rxHunt0Noise | rxHunt1Start | rxHunt1Esc | rxHunt1Noise | rxPayEsc | rxPayPlain | rxEscLiteral
  | rxEscAbort | rxEnd1 | rxEnd2Accept | rxEnd2Abort => exact exec_row_of_not_enabled rfl h
  | rxByte => exact execRxByte_nil (by simpa [enabled] using h)
  | applyCmd cmd => exact absurd rfl (happly cmd)
  | txByte => exact execTxByte_of_idle (by simpa [enabled] using h)
  | tick => exact if_neg (ne_true_of_eq_false h)
  | wireRecord | encStart | start | stop | reset | encode | toLogical | toWire => cases h

/-! ## The pure functions -/

/-- `encode(P)` written out byte by byte (R100). -/
theorem encodeFrame_eq (p : Payload) : encodeFrame p =
    [0x10#8, 0x02#8] ++ stuff p.b0 ++ stuff p.b1 ++ stuff p.b2 ++ stuff p.b3 ++ stuff p.b4 ++ [0x10#8, 0x03#8] := by
  simp [encodeFrame, escapedPayload, Payload.bytes]

/-- Settles O43: every value but that of `encode`, which is written out, is the function's by definition. -/
theorem pureFunctionsReturnTheirValue : Obligations.PureFunctionsReturnTheirValue := by
  intro s p cmd
  rw [← encodeFrame_eq]
  exact ⟨rfl, rfl, rfl, rfl⟩

/-- Settles O44: by definition the record row translates its fields (R150). -/
theorem wireRecordTranslatesItsFields : Obligations.WireRecordTranslatesItsFields := fun _ _ _ _ _ _ => rfl

end Sys2Proof.Machine
end

section
/-! The decoder consuming bytes (R121, R141): `RX_BYTE` by the row its byte selects, and the wire tokens (R71) by the
effects of their bytes, one after the other. -/

namespace Sys2Proof.Machine
open Sys2Proof.Safety

/-- Settles O18: each row is `RX_BYTE` where the front byte selects it. -/
theorem rxByteRunsTheSelectedRow : Obligations.RxByteRunsTheSelectedRow := by
  intro s b rest hrx
  obtain ⟨ds, e1ok, hsrc⟩ := decodeByte_source s.dec.ds s.dec.e1ok b
  have hrow : currentRow s = some (decodeByte s.dec.ds s.dec.e1ok b) := by simp only [currentRow, hrx]
  rw [exec_row hsrc, if_pos hrow]
  rfl

/-! ## A received byte, by the transition table -/

section
variable (b : Byte) (s : State)

/-- The effect of a received byte does not depend on the bytes after it. -/
theorem rxEffect_setRx (bs : List Byte) : rxEffect b (s.setRx bs) = (rxEffect b s).setRx bs := by
  cases h : (decStep s.dec b).2 with
  | none => rw [rxEffect_of_decStep_none h, rxEffect_of_decStep_none (s := s.setRx bs) h]; rfl
  | some p => rw [rxEffect_of_decStep_some h, rxEffect_of_decStep_some (s := s.setRx bs) h]; rfl

theorem rxEffect_dec : (rxEffect b s).dec = (decStep s.dec b).1 := by
  cases h : (decStep s.dec b).2 with
  | none => rw [rxEffect_of_decStep_none h]; rfl
  | some p =>
    obtain ⟨-, -, -, -, hd⟩ := decStep_some h
    rw [rxEffect_of_decStep_some h, hd]; rfl

theorem rxEffect_delivered : (rxEffect b s).delivered = s.delivered ++ (decStep s.dec b).2.toList := by
  cases h : (decStep s.dec b).2 with
  | none => rw [rxEffect_of_decStep_none h]; simp
  | some p =>
    obtain ⟨-, -, -, rfl, -⟩ := decStep_some h
    rw [rxEffect_of_decStep_some h]; rfl

theorem rxEffect_result : (rxEffect b s).result = s.result := by
  cases h : (decStep s.dec b).2 with
  | none => rw [rxEffect_of_decStep_none h]; rfl
  | some p => rw [rxEffect_of_decStep_some h]; rfl

end

/-! ## Several bytes -/

/-- The effects of the bytes `w`, received one after the other. -/
def rxEffects (w : List Byte) (s : State) : State := w.foldl (fun u b => rxEffect b u) s

@[simp] theorem rxEffects_nil (s : State) : rxEffects [] s = s := rfl
@[simp] theorem rxEffects_cons (b : Byte) (w : List Byte) (s : State) :
    rxEffects (b :: w) s = rxEffects w (rxEffect b s) := rfl

theorem rxEffects_setRx (w bs : List Byte) (s : State) : rxEffects w (s.setRx bs) = (rxEffects w s).setRx bs := by
  induction w generalizing s with
  | nil => rfl
  | cons b w ih => rw [rxEffects_cons, rxEffect_setRx, ih, rxEffects_cons]

/-- One `RX_BYTE` for each byte of `w` at the front of `RX`: the bytes are gone, and their effects have taken place. -/
theorem rxTimes_front {w rest : List Byte} {s : State} (hrx : s.rx = w ++ rest) :
    rxTimes w.length s = .next ((rxEffects w s).setRx rest) := by
  induction w generalizing s with
  | nil => rw [List.nil_append] at hrx; subst hrx; rfl
  | cons b w ih =>
    rw [List.length_cons, rxTimes_cons hrx, rxEffect_setRx, ih rfl, rxEffects_setRx, State.setRx_setRx, rxEffects_cons]

/-- What a byte sequence does to the decoder and to `DELIVERED` is `dec_run` (R141). -/
theorem rxEffects_decRun (w : List Byte) (s : State) :
    (rxEffects w s).dec = (decRun s.dec w).1 ∧ (rxEffects w s).delivered = s.delivered ++ (decRun s.dec w).2 := by
  induction w generalizing s with
  | nil => exact ⟨rfl, (List.append_nil _).symm⟩
  | cons b w ih =>
    obtain ⟨hdec, hdel⟩ := ih (rxEffect b s)
    rw [rxEffect_dec] at hdec hdel
    rw [rxEffect_delivered, List.append_assoc] at hdel
    exact ⟨hdec, hdel⟩

/-- Bytes on which nothing is delivered apply nothing (R158). -/
theorem rxEffects_act {w : List Byte} {s : State} (h : (decRun s.dec w).2 = []) : (rxEffects w s).act = s.act := by
  induction w generalizing s with
  | nil => rfl
  | cons b w ih =>
    obtain ⟨hfirst, hrest⟩ := List.append_eq_nil_iff.1 h
    rw [← rxEffect_dec] at hrest
    rw [rxEffects_cons, ih hrest, rxEffect_of_decStep_none (Option.toList_eq_nil_iff.1 hfirst)]
    rfl

theorem rxEffects_result (w : List Byte) (s : State) : (rxEffects w s).result = s.result := by
  induction w generalizing s with
  | nil => rfl
  | cons b w ih => rw [rxEffects_cons, ih, rxEffect_result]

/-! ## Wire tokens -/

/-- A wire token at the front of `RX` completes: its bytes are gone, and their effects have taken place (R71, R89). -/
theorem exec_token_front {i : Instr} (hsrc : i.source = some .token) (hwf : i.wf = true) {s : State}
    {rest : List Byte} (hrx : s.rx = encode i ++ rest) :
    exec i s = .next ((rxEffects (encode i) s).setRx rest) := by
  rw [exec_token hsrc hwf, if_pos (List.isPrefixOf_iff_prefix.2 ⟨rest, hrx.symm⟩), rxTimes_front hrx]

/-- The position and `TICK_EN` are not the decoder's (R41). -/
theorem DecoderFrame.position {s t : State} (h : DecoderFrame s t) :
    t.act.gpCur = s.act.gpCur ∧ t.act.tickEn = s.act.tickEn := by
  obtain ha | ⟨p, ha⟩ := h.act <;> rw [ha]
  · exact ⟨rfl, rfl⟩
  · exact ⟨rfl, rfl⟩

/-- Settles O21: the token's bytes have their effects in order, and those are `dec_run`. -/
theorem tokensRunTheirBytesEverywhere : Obligations.TokensRunTheirBytesEverywhere := by
  intro i s rest hsrc hwf hrx
  have hframe := rxTimes_frame (rxTimes_front hrx)
  obtain ⟨hdec, hdel⟩ := rxEffects_decRun (encode i) s
  obtain ⟨hpos, hen⟩ := hframe.position
  exact ⟨_, exec_token_front hsrc hwf hrx, rfl, hdec, hdel, rxEffects_act, hframe.enc, hframe.tx, hframe.txPrior, hpos,
    hen, rxEffects_result _ s⟩

/-- `dec_store` stores a payload byte (R128). -/
theorem decStore_storesPayloadByte (c : Byte) (rest : List Byte) (s : State) :
    storesPayloadByte c rest s ((decStore c s).setRx rest) := by
  have hget := Payload.get_set_self s.dec.pb s.dec.idx c
  have hother := fun j => Payload.get_set_other s.dec.pb (i := s.dec.idx) (j := j) c
  rw [decStore_eq]
  split
  next h4 =>
    rw [← h4]
    exact ⟨rfl, rfl, hget, hother, by simp [h4]⟩
  next h4 =>
    have hval : s.dec.idx.val ≠ 4 := fun h => h4 (Fin.ext h)
    refine ⟨rfl, rfl, hget, hother, ?_⟩
    rw [if_neg hval]
    exact ⟨rfl, Fin.val_add_one_of_lt (Fin.lt_last_iff_ne_last.2 h4)⟩

/-- The gripper Flag selects the opened position for a zero byte and the closed one for any other (R153, R159). -/
theorem gripperTarget_flag (cfg : Config.Params) (b : Byte) :
    gripperTarget cfg (flag (uint8 b)) = if b = 0 then cfg.posOpened else cfg.posClosed := by
  have hflag : flag (uint8 b) = true ↔ b ≠ 0 := decide_eq_true_iff.trans (BitVec.toNat_eq (y := 0#8)).not.symm
  by_cases hb : b = 0
  · rw [gripperTarget, if_neg (fun h => hflag.1 h hb), if_pos hb]
  · rw [gripperTarget, if_pos (hflag.2 hb), if_neg hb]

/-- An accept is the delivery, the translation and the application written out (R132). -/
theorem accept_eq_afterAccept (rest : List Byte) (s : State) : (accept s).setRx rest = afterAccept rest s := by
  have hgrip := gripperTarget_flag s.cfg s.dec.pb.b4
  simp only [afterAccept, ← hgrip]
  rfl

/-- In either hunting state 0x10 may begin `START` (R122, R123 a). -/
theorem rxEffect_escByte_of_hunt {s : State} (h : s.dec.ds = .hunt0 ∨ s.dec.ds = .hunt1) :
    rxEffect 0x10#8 s = setDs .hunt1 s := by
  obtain h | h := h
  · exact rxEffect_hunt0 _ h
  · exact rxEffect_hunt1 _ h

/-- Settles O20: each token by the effects of its bytes in the state where it is valid. -/
theorem tokensStandForTheirEffects : Obligations.TokensStandForTheirEffects := by
  intro s rest
  refine ⟨fun hds hrx => ?_, fun b hb hds hrx => ?_, fun hds hrx => ?_, fun hds hrx => ?_⟩
  · have heff : rxEffects [0x10#8, 0x02#8] s = beginAttempt (setDs .hunt1 s) := by
      rw [rxEffects_cons, rxEffect_escByte_of_hunt hds]
      exact rxEffect_hunt1 0x02#8 (s := setDs .hunt1 s) rfl
    rw [exec_token_front rfl rfl hrx, encode, heff]
    rfl
  · have heff : rxEffects [b] s = decStore b s := (rxEffect_pay b hds).trans (if_neg hb)
    refine ⟨_, exec_token_front (i := .plainByte b) rfl (bne_iff_ne.2 hb) hrx, ?_⟩
    rw [encode, heff]
    exact decStore_storesPayloadByte b rest s
  · have heff : rxEffects [0x10#8, 0x10#8] s = decStore 0x10#8 (setDs .esc s) := by
      rw [rxEffects_cons, rxEffect_pay _ hds]
      exact rxEffect_esc 0x10#8 (s := setDs .esc s) rfl
    refine ⟨_, exec_token_front rfl rfl hrx, ?_⟩
    rw [encode, heff]
    exact decStore_storesPayloadByte 0x10#8 rest (setDs .esc s)
  · have heff : rxEffects [0x10#8, 0x03#8] s = accept (firstEndByte 0x10#8 s) := by
      rw [rxEffects_cons, rxEffect_end1 _ hds]
      exact rxEffect_accept (s := firstEndByte 0x10#8 s) rfl rfl
    rw [exec_token_front rfl rfl hrx, encode, heff, accept_eq_afterAccept]
    rfl

end Sys2Proof.Machine
end

section
/-! The encoder (R104 to R113): its transition table row by row, and the frame as a code. -/

namespace Sys2Proof.Machine
open Sys2Proof.Safety

-- One proof after the other: proofs elaborated side by side each hold memory of their own, and the text is long.
set_option Elab.async false

/-! ## The transition table, row by row (R112) -/

/-- The registers after a payload byte is done: the next byte, or END after the last (R108, `enc_advance`). -/
def Encoder.advance (e : Encoder) : Encoder :=
  if e.eidx = 4 then { e with es := .em0 } else { e with es := .dat, eidx := e.eidx + 1 }

section
variable {e : Encoder}

theorem Encoder.advance_of_last (h : e.eidx = 4) : e.advance = { e with es := .em0 } := if_pos h

theorem Encoder.advance_of_lt (h : e.eidx.val < 4) :
    e.advance = { e with es := .dat, eidx := e.eidx + 1 } ∧ (e.eidx + 1).val = e.eidx.val + 1 :=
  have hne : e.eidx ≠ Fin.last 4 := Fin.ne_of_lt h
  ⟨if_neg hne, Fin.val_add_one_of_lt (Fin.lt_last_iff_ne_last.2 hne)⟩

theorem encStep_of_sm0 (h : e.es = .sm0) : encStep e = some (0x10#8, { e with es := .sm1 }) := by
  simp only [encStep, h]

theorem encStep_of_sm1 (h : e.es = .sm1) : encStep e = some (0x02#8, { e with es := .dat, eidx := 0 }) := by
  simp only [encStep, h]

theorem encStep_of_dat_escape (h : e.es = .dat) (hb : e.epb.get e.eidx = 0x10#8) :
    encStep e = some (0x10#8, { e with es := .dup }) := by
  simp only [encStep, h, hb, if_true]

theorem encStep_of_dat_plain (h : e.es = .dat) (hb : e.epb.get e.eidx ≠ 0x10#8) :
    encStep e = some (e.epb.get e.eidx, e.advance) := by
  simp only [encStep, h, hb, if_false, Encoder.advance]
  split <;> rfl

theorem encStep_of_dup (h : e.es = .dup) : encStep e = some (0x10#8, e.advance) := by
  simp only [encStep, h, Encoder.advance]
  split <;> rfl

theorem encStep_of_em0 (h : e.es = .em0) : encStep e = some (0x10#8, { e with es := .em1 }) := by
  simp only [encStep, h]

theorem encStep_of_em1 (h : e.es = .em1) : encStep e = some (0x03#8, { e with es := .idle }) := by
  simp only [encStep, h]

end

/-! ## What each `TX_BYTE` does -/

/-- Settles O31: a busy encoder takes the row that the table has for it. -/
theorem txByteFollowsTheTransitionTable : Obligations.TxByteFollowsTheTransitionTable :=
  fun _ => execTxByte_of_busy

/-- `enc_advance` as O30 writes it: the payload is kept, and the index tells where `ES` goes (R108). -/
theorem Encoder.advance_spec (e : Encoder) :
    e.advance.epb = e.epb ∧ (e.eidx.val = 4 → e.advance.es = .em0 ∧ e.advance.eidx = e.eidx) ∧
      (e.eidx.val < 4 → e.advance.es = .dat ∧ e.advance.eidx.val = e.eidx.val + 1) := by
  refine ⟨?_, fun h4 => ?_, fun hlt => ?_⟩
  · unfold Encoder.advance
    split <;> rfl
  · rw [Encoder.advance_of_last (Fin.ext h4)]
    exact ⟨rfl, rfl⟩
  · obtain ⟨hadv, hval⟩ := Encoder.advance_of_lt hlt
    rw [hadv]
    exact ⟨rfl, hval⟩

/-- Settles O30: each clause is the row of the table for its state, with `enc_advance` where a payload byte is done. -/
theorem txByteSendsByItsState : Obligations.TxByteSendsByItsState := fun s =>
  have hrow {b : Byte} {e : Encoder} (h : encStep s.enc = some (b, e)) :
      exec .txByte s = .next { s with tx := s.tx ++ [b], enc := e } := execTxByte_of_encStep_some h
  ⟨fun h => hrow (encStep_of_sm0 h), fun h => hrow (encStep_of_sm1 h),
    fun h hb => hrow (encStep_of_dat_escape h hb),
    fun h hb => ⟨_, hrow (encStep_of_dat_plain h hb), s.enc.advance_spec⟩,
    fun h => ⟨_, hrow (encStep_of_dup h), s.enc.advance_spec⟩,
    fun h => hrow (encStep_of_em0 h), fun h => hrow (encStep_of_em1 h)⟩

/-! ## The frame as a code (R72, R100, R101) -/

theorem stuff_escape : stuff 0x10#8 = [0x10#8, 0x10#8] := rfl

theorem stuff_plain {b : Byte} (h : b ≠ 0x10#8) : stuff b = [b] := if_neg h

theorem length_flatMap_stuff (bs : List Byte) : (bs.flatMap stuff).length = bs.length + bs.count 0x10#8 := by
  induction bs with
  | nil => rfl
  | cons b bs ih =>
    rw [List.flatMap_cons, List.length_append, ih, List.length_cons]
    by_cases hb : b = 0x10#8
    · subst hb
      rw [stuff_escape, List.count_cons_self, List.length_cons, List.length_singleton]
      omega
    · rw [stuff_plain hb, List.count_cons_of_ne hb, List.length_singleton]
      omega

/-- Settles O33: two markers of two bytes, five payload bytes, and one byte more for each escape. -/
theorem frameLengthCountsTheEscapes : Obligations.FrameLengthCountsTheEscapes := by
  intro p
  have hlen : (encodeFrame p).length = 9 + p.bytes.count 0x10#8 := by
    have hesc : (escapedPayload p).length = 5 + p.bytes.count 0x10#8 := length_flatMap_stuff p.bytes
    simp only [encodeFrame, List.length_append, hesc, List.length_cons, List.length_nil]
    omega
  have hcount : p.bytes.count 0x10#8 ≤ 5 := List.count_le_length
  omega

/-- No stuffed byte is the beginning of another: a first byte 0x10 says that a second one follows (R72). -/
theorem stuff_append_inj {b c : Byte} {u v : List Byte} (h : stuff b ++ u = stuff c ++ v) : b = c ∧ u = v := by
  by_cases hb : b = 0x10#8 <;> by_cases hc : c = 0x10#8
  · subst hb hc
    exact ⟨rfl, List.append_cancel_left h⟩
  · rw [hb, stuff_escape, stuff_plain hc] at h
    exact absurd (List.cons.inj h).1.symm hc
  · rw [hc, stuff_escape, stuff_plain hb] at h
    exact absurd (List.cons.inj h).1 hb
  · rw [stuff_plain hb, stuff_plain hc] at h
    exact List.cons.inj h

theorem flatMap_stuff_append_inj {bs cs u v : List Byte} (hlen : bs.length = cs.length)
    (h : bs.flatMap stuff ++ u = cs.flatMap stuff ++ v) : bs = cs ∧ u = v := by
  induction bs generalizing cs with
  | nil =>
    obtain rfl := List.length_eq_zero_iff.1 hlen.symm
    exact ⟨rfl, h⟩
  | cons b bs ih =>
    cases cs with
    | nil => cases hlen
    | cons c cs =>
      rw [List.flatMap_cons, List.flatMap_cons, List.append_assoc, List.append_assoc] at h
      obtain ⟨rfl, htail⟩ := stuff_append_inj h
      obtain ⟨rfl, huv⟩ := ih (Nat.succ.inj hlen) htail
      exact ⟨rfl, huv⟩

theorem payload_eq_of_bytes_eq {p q : Payload} (h : p.bytes = q.bytes) : p = q := by
  cases p; cases q
  simpa [Payload.bytes] using h

/-- Settles O34: after `START`, five stuffed bytes are read off both streams, and then `END`. -/
theorem framesAreUniquelyReadable : Obligations.FramesAreUniquelyReadable := by
  intro p q u v h
  simp only [encodeFrame, List.append_assoc] at h
  obtain ⟨hbytes, hend⟩ := flatMap_stuff_append_inj (bs := p.bytes) (cs := q.bytes) rfl (List.append_cancel_left h)
  exact ⟨payload_eq_of_bytes_eq hbytes, List.append_cancel_left hend⟩

end Sys2Proof.Machine
end

section
/-! The encoder sends exactly the frame it was given (R113): what it has still to send is a function of its registers,
each `TX_BYTE` takes the first byte of it, and no other agent touches it. -/

namespace Sys2Proof.Machine
open Sys2Proof.Safety

-- One proof after the other: proofs elaborated side by side each hold memory of their own, and the text is long.
set_option Elab.async false

/-! ## What the encoder has still to send -/

/-- The payload bytes from index `i` on, escaped, and `END`. -/
def frameFrom (p : Payload) (i : Nat) : List Byte := (p.bytes.drop i).flatMap stuff ++ [0x10#8, 0x03#8]

/-- What a busy encoder has still to send, by its registers; nothing when it is idle. -/
def Encoder.pending (e : Encoder) : List Byte :=
  match e.es with
  | .idle => []
  | .sm0 => encodeFrame e.epb
  | .sm1 => 0x02#8 :: frameFrom e.epb 0
  | .dat => frameFrom e.epb e.eidx
  | .dup => 0x10#8 :: frameFrom e.epb (e.eidx + 1)
  | .em0 => [0x10#8, 0x03#8]
  | .em1 => [0x03#8]

theorem encodeFrame_eq_frameFrom (p : Payload) : encodeFrame p = 0x10#8 :: 0x02#8 :: frameFrom p 0 := rfl

theorem frameFrom_eq_stuff_append (p : Payload) (i : Fin 5) :
    frameFrom p i = stuff (p.get i) ++ frameFrom p (i + 1) := by
  have hdrop : p.bytes.drop i = p.get i :: p.bytes.drop (i + 1) := by
    fin_cases i <;> rfl
  simp only [frameFrom, hdrop, List.flatMap_cons, List.append_assoc]

theorem Encoder.pending_advance (e : Encoder) : e.advance.pending = frameFrom e.epb (e.eidx + 1) := by
  by_cases h4 : e.eidx = 4
  · rw [Encoder.advance_of_last h4, h4]
    rfl
  · have hlt : e.eidx.val < 4 := Fin.lt_last_iff_ne_last.2 h4
    obtain ⟨hadv, hval⟩ := Encoder.advance_of_lt hlt
    rw [hadv, ← hval]
    rfl

/-- A row of the table sends the first byte of what is pending (R112). -/
theorem pending_of_encStep {e e' : Encoder} {b : Byte} (h : encStep e = some (b, e')) :
    e.pending = b :: e'.pending := by
  cases hes : e.es with
  | idle => rw [encStep_eq_none.2 hes] at h; cases h
  | sm0 => rw [encStep_of_sm0 hes] at h; cases h; simp only [Encoder.pending, hes, encodeFrame_eq_frameFrom]
  | sm1 => rw [encStep_of_sm1 hes] at h; cases h; simp only [Encoder.pending, hes]; rfl
  | dat =>
    have hpend : e.pending = stuff (e.epb.get e.eidx) ++ frameFrom e.epb (e.eidx + 1) := by
      rw [← frameFrom_eq_stuff_append]; simp only [Encoder.pending, hes]
    by_cases hb : e.epb.get e.eidx = 0x10#8
    · rw [encStep_of_dat_escape hes hb] at h; cases h
      rw [hpend, hb, stuff_escape]; rfl
    · rw [encStep_of_dat_plain hes hb] at h; cases h
      rw [hpend, stuff_plain hb, Encoder.pending_advance]; rfl
  | dup => rw [encStep_of_dup hes] at h; cases h; rw [Encoder.pending_advance]; simp only [Encoder.pending, hes]
  | em0 => rw [encStep_of_em0 hes] at h; cases h; simp only [Encoder.pending, hes]
  | em1 => rw [encStep_of_em1 hes] at h; cases h; simp only [Encoder.pending, hes]

/-- Only an idle encoder has nothing to send. -/
theorem pending_eq_nil {e : Encoder} : e.pending = [] ↔ e.es = .idle := by
  constructor
  · intro h
    by_contra hbusy
    obtain ⟨⟨b, e'⟩, hstep⟩ := Option.ne_none_iff_exists'.1 (mt encStep_eq_none.1 hbusy)
    rw [pending_of_encStep hstep] at h
    cases h
  · intro h
    simp only [Encoder.pending, h]

/-! ## Events -/

/-- `t` is reached from `s` by `n` moves of the encoder: `n` bytes of what was pending have been sent, as far as there
were as many, and the rest is pending. -/
def SentBytes (n : Nat) (s t : State) : Prop :=
  t.tx = s.tx ++ s.enc.pending.take n ∧ t.enc.pending = s.enc.pending.drop n

theorem SentBytes.zero {s t : State} (htx : t.tx = s.tx) (henc : t.enc = s.enc) : SentBytes 0 s t :=
  ⟨by rw [htx, List.take_zero, List.append_nil], by rw [henc, List.drop_zero]⟩

theorem SentBytes.trans {m n : Nat} {s t u : State} (h : SentBytes m s t) (h' : SentBytes n t u) :
    SentBytes (m + n) s u := by
  obtain ⟨htx, hpend⟩ := h
  obtain ⟨htx', hpend'⟩ := h'
  constructor
  · rw [htx', htx, hpend, List.append_assoc, List.take_add]
  · rw [hpend', hpend, List.drop_drop]

/-- `TX_BYTE` sends one byte of what is pending, and nothing when nothing is. -/
theorem sentBytes_txByte (s : State) : SentBytes 1 s (after (.op .txByte) s) := by
  by_cases hidle : s.enc.es = .idle
  · rw [after_of_next (perform_disabled (by simp [enabled, hidle]))]
    simp [SentBytes, pending_eq_nil.2 hidle]
  · obtain ⟨b, e, hstep, hexec⟩ := execTxByte_of_busy hidle
    have hperf : perform (.op .txByte) s = .next ((txPush b s).setEnc e) :=
      (perform_enabled (by simp [enabled, hidle])).trans hexec
    rw [after_of_next hperf, SentBytes, pending_of_encStep hstep]
    exact ⟨rfl, rfl⟩

/-- What an event makes the block run is the operation it names or has an encoded form. -/
theorem source_of_fetch {e : Event} {i : Instr} {s : State} (h : fetch e s = some i) :
    e = .op i ∨ ∃ src, i.source = some src := by
  cases e with
  | arrive b => cases h
  | byte =>
    obtain ⟨b, -, -, rfl⟩ := currentRow_some ((fetchFrom_byte s).symm.trans h)
    obtain ⟨ds, e1ok, hsrc⟩ := decodeByte_source s.dec.ds s.dec.e1ok b
    exact .inr ⟨_, hsrc⟩
  | token =>
    simp only [fetch, fetchFrom, decode] at h
    split at h
    next j rest hdec => cases h; exact .inr ⟨_, decodeToken_source hdec⟩
    next => cases h
  | record w => cases h; exact .inr ⟨_, rfl⟩
  | op j =>
    simp only [fetch] at h
    split at h
    next => cases h; exact .inl rfl
    next => cases h

/-- Nothing that has an encoded form is the encoder's (R41). -/
theorem writesEncoder_of_source {i : Instr} {src : Source} (h : i.source = some src) : writesEncoder i = false := by
  cases i with
  | encStart | txByte | reset => cases h
  | _ => rfl

/-- An event of another agent leaves the encoder and `TX` alone (R41). -/
theorem after_of_not_writesEncoder {e : Event} (hw : eventWrites writesEncoder false e = false) (s : State) :
    (after e s).enc = s.enc ∧ (after e s).tx = s.tx := by
  have hperf := perform_eq_after e s
  obtain ⟨b, -, ht⟩ | ht | ⟨i, hfetch, -, hexec⟩ := perform_cases hperf
  · rw [ht]; exact ⟨rfl, rfl⟩
  · rw [ht]; exact ⟨rfl, rfl⟩
  · have hi : writesEncoder i = false := by
      obtain rfl | ⟨src, hsrc⟩ := source_of_fetch hfetch
      · exact hw
      · exact writesEncoder_of_source hsrc
    obtain ⟨-, hkept, -⟩ := registersAreWrittenOnlyByTheirOwners i s _ hexec
    obtain ⟨henc, htx, -⟩ := hkept hi
    exact ⟨henc, htx⟩

/-- Over any schedule of `TX_BYTE`s and events of other agents, the encoder sends a byte for each `TX_BYTE`. -/
theorem sentBytes_foldl {es : List Event}
    (hes : ∀ e ∈ es, e = .op .txByte ∨ eventWrites writesEncoder false e = false) (s : State) : SentBytes (es.count (.op .txByte)) s (es.foldl (fun u e => after e u) s) := by
  induction es generalizing s with
  | nil => exact .zero rfl rfl
  | cons e es ih =>
    obtain ⟨he, hrest⟩ := List.forall_mem_cons.1 hes
    have htail := ih hrest (after e s)
    by_cases htx : e = .op .txByte
    · subst htx
      rw [List.count_cons_self, Nat.add_comm]
      exact (sentBytes_txByte s).trans htail
    · obtain ⟨henc, hsent⟩ := after_of_not_writesEncoder (he.resolve_left htx) s
      rw [List.count_cons_of_ne htx, ← Nat.zero_add (es.count _)]
      exact (SentBytes.zero hsent henc).trans htail

/-! ## The whole frame -/

/-- `ENC_START` on an idle encoder loads it (R104). -/
theorem after_encStart {s : State} (h : s.enc.es = .idle) (p : Payload) :
    after (.op (.encStart p)) s = s.setEnc { es := .sm0, eidx := 0, epb := p } :=
  after_of_next ((perform_enabled rfl).trans (execEncStart_of_idle h))

/-- Settles O32: after `ENC_START` the whole frame is pending, and each `TX_BYTE` sends one byte of what is pending. -/
theorem frameIsSentUnderAnyInterleaving : Obligations.FrameIsSentUnderAnyInterleaving := by
  intro s p es hidle hes
  obtain ⟨htx, hpend⟩ := sentBytes_foldl hes (s.setEnc { es := .sm0, eidx := 0, epb := p })
  change _ = s.tx ++ (encodeFrame p).take _ at htx
  change _ = (encodeFrame p).drop _ at hpend
  refine ⟨_, by rw [play_cons_after, after_encStart hidle, play_eq_foldl], fun hall => ?_, fun hfew => ?_⟩
  · rw [hall, List.take_length] at htx
    rw [hall, List.drop_length] at hpend
    exact ⟨htx, pending_eq_nil.1 hpend⟩
  · refine ⟨htx, fun hend => absurd (hpend.symm.trans (pending_eq_nil.2 hend)) ?_⟩
    rwa [List.drop_eq_nil_iff, Nat.not_le]

end Sys2Proof.Machine
end

section
/-! The rows of the decoder (R122 to R132): each is the row that its byte selects, and completes with the effect that its
rule writes out. -/

namespace Sys2Proof.Machine
open Sys2Proof.Safety

/-- `RX_BYTE` completes with the effect of the front byte, which is gone. -/
theorem exec_rxByte_cons {s : State} {b : Byte} {rest : List Byte} (hrx : s.rx = b :: rest) :
    exec .rxByte s = .next ((rxEffect b s).setRx rest) := by
  rw [← rxEffect_setRx]
  exact execRxByte_cons hrx

/-- The row that the front byte selects runs, and so does `RX_BYTE`, with the effect of that byte (R121). -/
theorem rowRuns_of_effect {i : Instr} {s u : State} {b : Byte} {rest : List Byte} (hrx : s.rx = b :: rest)
    (hrow : decodeByte s.dec.ds s.dec.e1ok b = i) (heff : rxEffect b s = u) : rowRuns i s (u.setRx rest) := by
  have hrun := exec_rxByte_cons hrx
  rw [heff] at hrun
  refine ⟨?_, hrun⟩
  rw [← hrow, ← rxByteRunsTheSelectedRow s b rest hrx, hrun]

theorem setDs_self {d : DecState} {s : State} (h : s.dec.ds = d) : setDs d s = s := by
  rw [← h]; rfl

/-- Settles O13: HUNT0 decodes by whether the byte is 0x10, and a discarded byte writes `DS` with what it held. -/
theorem hunt0RowsFollowTheirRule : Obligations.Hunt0RowsFollowTheirRule := by
  intro s rest b hrx hds
  refine ⟨fun hb => ?_, fun hb => ?_⟩
  · refine rowRuns_of_effect (u := setDs .hunt1 s) hrx ?_ ?_
    · rw [hds]; exact if_pos hb
    · rw [rxEffect_hunt0 b hds]; exact if_pos hb
  · refine rowRuns_of_effect (u := s) hrx ?_ ?_
    · rw [hds]; exact if_neg hb
    · rw [rxEffect_hunt0 b hds, setDs_self hds]; exact if_neg hb

/-- Settles O15: a byte after which a payload byte is complete stores it, and 0x10 in PAY waits for its partner. -/
theorem payloadRowsFollowTheirRules : Obligations.PayloadRowsFollowTheirRules := by
  intro s rest b hrx
  refine ⟨fun hds => ⟨fun hb => ?_, fun hb => ?_⟩, fun hds hb => ?_⟩
  · refine rowRuns_of_effect (u := setDs .esc s) hrx ?_ ?_
    · rw [hds]; exact if_pos hb
    · rw [rxEffect_pay b hds]; exact if_pos hb
  · refine ⟨_, rowRuns_of_effect hrx ?_ ?_, decStore_storesPayloadByte b rest s⟩
    · rw [hds]; exact if_neg hb
    · rw [rxEffect_pay b hds]; exact if_neg hb
  · refine ⟨_, rowRuns_of_effect hrx ?_ ?_, decStore_storesPayloadByte 0x10#8 rest s⟩
    · rw [hds]; exact if_pos hb
    · rw [rxEffect_esc b hds]; exact if_pos hb

/-- Settles O16: both aborts are the write of `DS` alone. -/
theorem abortRowsWriteOnlyTheSequencer : Obligations.AbortRowsWriteOnlyTheSequencer := by
  intro s rest b hrx
  refine ⟨fun hds hb => ?_, fun hds hbad => ?_⟩
  · refine rowRuns_of_effect (u := abort .escPair s) hrx ?_ ?_
    · rw [hds]; exact if_neg hb
    · rw [rxEffect_esc b hds]; exact if_neg hb
  · refine rowRuns_of_effect (u := abort .badEnd s) hrx ?_ (rxEffect_badEnd hds hbad)
    rw [hds]
    refine if_neg ?_
    rintro ⟨he, hb⟩
    exact hbad.elim (fun hfalse => Bool.false_ne_true (hfalse.symm.trans he)) (fun hne => hne hb)

/-- Settles O17: END1 writes the verdict on its byte, and END2 after a good one accepts. -/
theorem endRowsRememberThenAccept : Obligations.EndRowsRememberThenAccept := by
  intro s rest b hrx
  refine ⟨fun hds => ?_, fun hds he hb => ?_⟩
  · refine rowRuns_of_effect (u := firstEndByte b s) hrx ?_ (rxEffect_end1 b hds)
    rw [hds]; rfl
  · subst hb
    rw [← accept_eq_afterAccept]
    refine rowRuns_of_effect hrx ?_ (rxEffect_accept hds he)
    rw [hds]; exact if_pos ⟨he, rfl⟩

/-- Settles O19: where the table delivers, the byte is an accept, and elsewhere it changes the registers as the table
says. -/
theorem rxByteFollowsTheTransitionTable : Obligations.RxByteFollowsTheTransitionTable := by
  intro s b rest hrx
  refine ⟨_, exec_rxByte_cons hrx, rxEffect_dec b s, fun p hp => ?_, fun hp => ?_⟩
  · obtain ⟨-, -, -, hpb, -⟩ := decStep_some hp
    rw [rxEffect_of_decStep_some hp]
    exact ⟨hpb, accept_eq_afterAccept rest s⟩
  · rw [rxEffect_of_decStep_none hp]; rfl

end Sys2Proof.Machine
end

section
/-! `dec_run` over parts of a stream (R141), and what a hunting decoder makes of a frame (R137). -/

namespace Sys2Proof.Machine

/-! ## The transition table, row by row (R133) -/

/-- The registers after the payload byte `c` has been stored (R128, `dec_store`). -/
def Decoder.store (d : Decoder) (c : Byte) : Decoder :=
  if d.idx = 4 then { d with ds := .end1, pb := d.pb.set 4 c }
  else { d with ds := .pay, idx := d.idx + 1, pb := d.pb.set d.idx c }

/-- The decoder hunts for `START`. -/
def Decoder.Hunting (d : Decoder) : Prop := d.ds = .hunt0 ∨ d.ds = .hunt1

section
variable {d : Decoder} {b : Byte}

theorem Decoder.store_of_last (h : d.idx = 4) (c : Byte) :
    d.store c = { d with ds := .end1, pb := d.pb.set d.idx c } := by
  rw [Decoder.store, if_pos h, h]

theorem Decoder.store_of_lt (h : d.idx ≠ 4) (c : Byte) :
    d.store c = { d with ds := .pay, idx := d.idx + 1, pb := d.pb.set d.idx c } := if_neg h

theorem val_succ_of_ne_last {i : Fin 5} (h : i ≠ 4) : (i + 1).val = i.val + 1 :=
  Fin.val_add_one_of_lt (Fin.lt_last_iff_ne_last.2 h)

theorem decStep_of_hunting_escape (h : d.Hunting) : decStep d 0x10#8 = ({ d with ds := .hunt1 }, none) := by
  obtain h | h := h <;> simp [decStep, h]

theorem decStep_of_hunt0_noise (h : d.ds = .hunt0) (hb : b ≠ 0x10#8) :
    decStep d b = ({ d with ds := .hunt0 }, none) := by simp only [decStep, h, hb, if_false]

theorem decStep_of_hunt1_start (h : d.ds = .hunt1) : decStep d 0x02#8 = ({ d with ds := .pay, idx := 0 }, none) := by
  simp only [decStep, h, if_true]

theorem decStep_of_hunt1_noise (h : d.ds = .hunt1) (hstart : b ≠ 0x02#8) (hesc : b ≠ 0x10#8) :
    decStep d b = ({ d with ds := .hunt0 }, none) := by simp only [decStep, h, hstart, hesc, if_false]

theorem decStep_of_pay_escape (h : d.ds = .pay) : decStep d 0x10#8 = ({ d with ds := .esc }, none) := by
  simp only [decStep, h, if_true]

theorem decStep_of_pay_plain (h : d.ds = .pay) (hb : b ≠ 0x10#8) : decStep d b = (d.store b, none) := by
  simp only [decStep, h, hb, if_false, Decoder.store]
  split
  · rfl
  · rw [← h]

theorem decStep_of_esc_literal (h : d.ds = .esc) : decStep d 0x10#8 = (d.store 0x10#8, none) := by
  simp only [decStep, h, if_true, Decoder.store]
  split <;> rfl

theorem decStep_of_esc_abort (h : d.ds = .esc) (hb : b ≠ 0x10#8) : decStep d b = ({ d with ds := .hunt0 }, none) := by
  simp only [decStep, h, hb, if_false]

theorem decStep_of_end1 (h : d.ds = .end1) (b : Byte) :
    decStep d b = ({ d with ds := .end2, e1ok := b == 0x10#8 }, none) := by simp only [decStep, h]

theorem decStep_of_end2_accept (h : d.ds = .end2) (he : d.e1ok = true) :
    decStep d 0x03#8 = ({ d with ds := .hunt0 }, some d.pb) := by simp only [decStep, h, he, and_self, if_true]

theorem decStep_of_end2_abort (h : d.ds = .end2) (hbad : ¬ (d.e1ok = true ∧ b = 0x03#8)) :
    decStep d b = ({ d with ds := .hunt0 }, none) := by simp only [decStep, h, hbad, if_false]

end

/-! ## Runs over parts -/

/-- Settles O22, by induction on the first part. -/
theorem decRunSplitsOverConcatenation : Obligations.DecRunSplitsOverConcatenation := by
  intro d u w
  induction u generalizing d with
  | nil => rfl
  | cons b u ih => simp only [List.cons_append, decRun, ih, List.append_assoc]

section
variable {d d' : Decoder} {b : Byte} {u : List Byte}

/-- A byte that delivers nothing, and then the rest of the run. -/
theorem decRun_cons_of_quiet (h : decStep d b = (d', none)) (w : List Byte) : decRun d (b :: w) = decRun d' w := by
  simp only [decRun, h]; rfl

theorem decRun_byte_of_quiet (h : decStep d b = (d', none)) : decRun d [b] = (d', []) := decRun_cons_of_quiet h []

theorem decRun_pair_of_quiet {d₁ : Decoder} {c : Byte} (h₁ : decStep d b = (d₁, none))
    (h₂ : decStep d₁ c = (d', none)) : decRun d [b, c] = (d', []) :=
  (decRun_cons_of_quiet h₁ [c]).trans (decRun_byte_of_quiet h₂)

/-- Bytes that deliver `ps`, and then the rest of the run. -/
theorem decRun_append_of_run {ps : List Payload} (h : decRun d u = (d', ps)) (w : List Byte) :
    decRun d (u ++ w) = ((decRun d' w).1, ps ++ (decRun d' w).2) := by
  rw [decRunSplitsOverConcatenation, h]

/-- Bytes that deliver nothing, and then the rest of the run. -/
theorem decRun_append_of_quiet (h : decRun d u = (d', [])) (w : List Byte) : decRun d (u ++ w) = decRun d' w :=
  decRun_append_of_run h w

/-- In PAY a stuffed byte stores the byte that it stands for (R124 to R126). -/
theorem decRun_stuff_of_pay (h : d.ds = .pay) (c : Byte) : decRun d (stuff c) = (d.store c, []) := by
  by_cases hc : c = 0x10#8
  · subst hc
    exact decRun_pair_of_quiet (decStep_of_pay_escape h) (decStep_of_esc_literal (d := { d with ds := .esc }) rfl)
  · rw [stuff_plain hc]
    exact decRun_byte_of_quiet (decStep_of_pay_plain h hc)

/-- `START` makes a hunting decoder begin an attempt (R123), also after a byte 0x10 of noise. -/
theorem decRun_start_of_hunting (h : d.Hunting) :
    decRun d [0x10#8, 0x02#8] = ({ d with ds := .pay, idx := 0 }, []) :=
  decRun_pair_of_quiet (decStep_of_hunting_escape h) (decStep_of_hunt1_start (d := { d with ds := .hunt1 }) rfl)

/-- A stuffed payload byte before the last one is stored, and the next one is expected. -/
theorem decRun_stuff_append_of_pay {i j : Fin 5} (hi : i ≠ 4) (hj : i + 1 = j) (e1ok : Bool) (pb : Payload) (c : Byte)
    (w : List Byte) : decRun ⟨.pay, i, e1ok, pb⟩ (stuff c ++ w) = decRun ⟨.pay, j, e1ok, pb.set i c⟩ w := by
  rw [decRun_append_of_quiet (decRun_stuff_of_pay rfl c), Decoder.store_of_lt hi, hj]

/-- An attempt that has just begun stores the five payload bytes and then expects `END`. -/
theorem decRun_escapedPayload_of_begun (h : d.ds = .pay) (hidx : d.idx = 0) (p : Payload) :
    decRun d (escapedPayload p) = ({ d with ds := .end1, idx := 4, pb := p }, []) := by
  obtain ⟨_, _, e1ok, pb⟩ := d
  subst h hidx
  have hbytes : escapedPayload p = stuff p.b0 ++ (stuff p.b1 ++ (stuff p.b2 ++ (stuff p.b3 ++ stuff p.b4))) := by
    simp only [escapedPayload, Payload.bytes, List.flatMap_cons, List.flatMap_nil, List.append_nil]
  rw [hbytes, decRun_stuff_append_of_pay (i := 0) (j := 1) (by decide) rfl,
    decRun_stuff_append_of_pay (i := 1) (j := 2) (by decide) rfl,
    decRun_stuff_append_of_pay (i := 2) (j := 3) (by decide) rfl,
    decRun_stuff_append_of_pay (i := 3) (j := 4) (by decide) rfl, decRun_stuff_of_pay rfl, Decoder.store_of_last rfl]
  rfl

/-- `END` after a complete payload delivers it (R129, R130). -/
theorem decRun_end_of_end1 (h : d.ds = .end1) :
    decRun d [0x10#8, 0x03#8] = ({ d with ds := .hunt0, e1ok := true }, [d.pb]) := by
  rw [decRun_cons_of_quiet (decStep_of_end1 h _), decRun, decStep_of_end2_accept rfl rfl]
  rfl

/-- A hunting decoder receives a frame: the payload is delivered, and the decoder hunts again (R137). -/
theorem decRun_encodeFrame_of_hunting (h : d.Hunting) (p : Payload) :
    decRun d (encodeFrame p) = (⟨.hunt0, 4, true, p⟩, [p]) := by
  rw [encodeFrame, List.append_assoc, decRun_append_of_quiet (decRun_start_of_hunting h),
    decRun_append_of_quiet (decRun_escapedPayload_of_begun rfl rfl p), decRun_end_of_end1 rfl]

end

end Sys2Proof.Machine
end

section
/-! What the decoder delivers stood in the stream (R139): its registers say which part of a frame it has last consumed. -/

namespace Sys2Proof.Machine

/-- The beginning of a frame up to its first `n` payload bytes, escaped. -/
def frameUpTo (p : Payload) (n : Nat) : List Byte := 0x10#8 :: 0x02#8 :: (p.bytes.take n).flatMap stuff

/-- The part of a frame that a decoder has last consumed, by its registers: what was sent of the frame that it may still
complete. -/
def Decoder.held (d : Decoder) : List Byte :=
  match d.ds with
  | .hunt0 => []
  | .hunt1 => [0x10#8]
  | .pay => frameUpTo d.pb d.idx
  | .esc => frameUpTo d.pb d.idx ++ [0x10#8]
  | .end1 => frameUpTo d.pb 5
  | .end2 => if d.e1ok then frameUpTo d.pb 5 ++ [0x10#8] else []

theorem Decoder.held_of_hunt0 {d : Decoder} (h : d.ds = .hunt0) : d.held = [] := by simp only [Decoder.held, h]

theorem Decoder.held_of_hunt1 {d : Decoder} (h : d.ds = .hunt1) : d.held = [0x10#8] := by simp only [Decoder.held, h]

theorem encodeFrame_eq_frameUpTo (p : Payload) : encodeFrame p = frameUpTo p 5 ++ [0x10#8, 0x03#8] := rfl

theorem frameUpTo_set (p : Payload) (i : Fin 5) (c : Byte) :
    frameUpTo (p.set i c) (i.val + 1) = frameUpTo p i ++ stuff c := by
  have htake : (p.set i c).bytes.take (i.val + 1) = p.bytes.take i ++ [c] := by
    fin_cases i <;> rfl
  simp only [frameUpTo, htake, List.flatMap_append, List.flatMap_singleton, List.cons_append]

theorem Decoder.held_store (d : Decoder) (c : Byte) : (d.store c).held = frameUpTo d.pb d.idx ++ stuff c := by
  rw [← frameUpTo_set]
  by_cases h4 : d.idx = 4
  · rw [Decoder.store_of_last h4, h4]; rfl
  · rw [Decoder.store_of_lt h4, ← val_succ_of_ne_last h4]; rfl

/-- What a decoder holds after a byte is the end of what it held before and that byte. -/
theorem held_decStep (d : Decoder) (b : Byte) : (decStep d b).1.held <:+ d.held ++ [b] := by
  have hnone : ({ d with ds := .hunt0 } : Decoder).held <:+ d.held ++ [b] := List.nil_suffix
  cases hds : d.ds with
  | hunt0 =>
    by_cases hb : b = 0x10#8
    · subst hb
      rw [decStep_of_hunting_escape (.inl hds)]
      exact List.suffix_append d.held [0x10#8]
    · rwa [decStep_of_hunt0_noise hds hb]
  | hunt1 =>
    by_cases hesc : b = 0x10#8
    · subst hesc
      rw [decStep_of_hunting_escape (.inr hds)]
      exact List.suffix_append d.held [0x10#8]
    · by_cases hstart : b = 0x02#8
      · subst hstart
        rw [decStep_of_hunt1_start hds, Decoder.held_of_hunt1 hds]
        exact List.suffix_refl _
      · rwa [decStep_of_hunt1_noise hds hstart hesc]
  | pay =>
    have hheld : d.held = frameUpTo d.pb d.idx := by simp only [Decoder.held, hds]
    by_cases hb : b = 0x10#8
    · subst hb
      rw [decStep_of_pay_escape hds, hheld]
      exact List.suffix_refl _
    · rw [decStep_of_pay_plain hds hb, Decoder.held_store, stuff_plain hb, hheld]
  | esc =>
    have hheld : d.held = frameUpTo d.pb d.idx ++ [0x10#8] := by simp only [Decoder.held, hds]
    by_cases hb : b = 0x10#8
    · subst hb
      rw [decStep_of_esc_literal hds, Decoder.held_store, stuff_escape, hheld, List.append_assoc]
      exact List.suffix_refl _
    · rwa [decStep_of_esc_abort hds hb]
  | end1 =>
    have hheld : d.held = frameUpTo d.pb 5 := by simp only [Decoder.held, hds]
    rw [decStep_of_end1 hds, hheld]
    by_cases hb : b = 0x10#8
    · subst hb; exact List.suffix_refl _
    · simp only [Decoder.held, beq_false_of_ne hb]
      exact List.nil_suffix
  | end2 =>
    by_cases hgood : d.e1ok = true ∧ b = 0x03#8
    · obtain ⟨he, rfl⟩ := hgood
      rwa [decStep_of_end2_accept hds he]
    · rwa [decStep_of_end2_abort hds hgood]

/-- A byte on which a payload is delivered completes its frame with what the decoder held. -/
theorem held_of_decStep_some {d : Decoder} {b : Byte} {p : Payload} (h : (decStep d b).2 = some p) :
    d.held ++ [b] = encodeFrame p := by
  obtain ⟨hds, he, rfl, rfl, -⟩ := decStep_some h
  simp only [Decoder.held, hds, he, if_true, encodeFrame_eq_frameUpTo, List.append_assoc]
  rfl

/-- The frame of a delivered payload is a part of what the decoder held and the bytes it consumes. -/
theorem encodeFrame_infix_of_delivered {d : Decoder} {w : List Byte} {p : Payload} (h : p ∈ (decRun d w).2) :
    encodeFrame p <:+: d.held ++ w := by
  induction w generalizing d with
  | nil => cases h
  | cons b w ih =>
    have hsplit : d.held ++ b :: w = (d.held ++ [b]) ++ w := by simp
    rw [hsplit]
    obtain hfirst | hrest := List.mem_append.1 h
    · rw [held_of_decStep_some (Option.mem_toList.1 hfirst)]
      exact (List.prefix_append _ _).isInfix
    · obtain ⟨before, hheld⟩ := held_decStep d b
      rw [← hheld, List.append_assoc]
      exact (ih hrest).trans (List.suffix_append _ _).isInfix

/-- Settles O26: a decoder in HUNT0 holds nothing. -/
theorem deliveredPayloadStoodInTheStream : Obligations.DeliveredPayloadStoodInTheStream := by
  intro d w p hds hp
  have hin := encodeFrame_infix_of_delivered hp
  rwa [Decoder.held_of_hunt0 hds] at hin

end Sys2Proof.Machine
end

section
/-! What lies between the frames (R138, R142): noise without `START` leaves a decoder hunting, and a decoder that is out
of step with a frame loses that one only. -/

namespace Sys2Proof.Machine

/-! ## Noise (R138) -/

/-- A byte that completes no `START` leaves a decoder hunting and delivers nothing. -/
theorem decStep_noise {d : Decoder} {b : Byte} (h : d.Hunting) (hb : d.held ++ [b] ≠ [0x10#8, 0x02#8]) :
    ∃ d', decStep d b = (d', none) ∧ d'.Hunting := by
  by_cases hesc : b = 0x10#8
  · subst hesc
    exact ⟨_, decStep_of_hunting_escape h, .inr rfl⟩
  · refine ⟨{ d with ds := .hunt0 }, ?_, .inl rfl⟩
    obtain hds | hds := h
    · exact decStep_of_hunt0_noise hds hesc
    · refine decStep_of_hunt1_noise hds (fun hstart => hb ?_) hesc
      rw [Decoder.held_of_hunt1 hds, hstart]
      rfl

/-- Noise that, after what the decoder holds, has no `START` in it leaves a decoder hunting and delivers nothing. -/
theorem decRun_noise {d : Decoder} {noise : List Byte} (h : d.Hunting)
    (hclean : ¬ [0x10#8, 0x02#8] <:+: d.held ++ noise) : ∃ d', decRun d noise = (d', []) ∧ d'.Hunting := by
  induction noise generalizing d with
  | nil => exact ⟨d, rfl, h⟩
  | cons b noise ih =>
    have hsplit : d.held ++ b :: noise = (d.held ++ [b]) ++ noise := by simp
    rw [hsplit] at hclean
    obtain ⟨d', hstep, hhunt⟩ := decStep_noise h fun hstart =>
      hclean (hstart ▸ (List.prefix_append _ noise).isInfix)
    rw [decRun_cons_of_quiet hstep]
    refine ih hhunt fun hin => hclean ?_
    obtain ⟨before, hheld⟩ := held_decStep d b
    rw [hstep] at hheld
    rw [← hheld, List.append_assoc]
    exact hin.trans (List.suffix_append _ _).isInfix

/-- Noise without `START` does not hide the frame after it. -/
theorem decRun_noise_encodeFrame {d : Decoder} {noise : List Byte} (h : d.Hunting)
    (hclean : ¬ [0x10#8, 0x02#8] <:+: d.held ++ noise) (p : Payload) :
    decRun d (noise ++ encodeFrame p) = (⟨.hunt0, 4, true, p⟩, [p]) := by
  obtain ⟨d', hnoise, hhunt⟩ := decRun_noise h hclean
  rw [decRun_append_of_quiet hnoise, decRun_encodeFrame_of_hunting hhunt]

/-! ## A decoder out of step with a frame (R142) -/

/-- The decoder is at the boundary of two tokens of a frame of which `n` payload bytes are still to come, and will not
expect `END` where the frame's `END` stands: it hunts, or in PAY and END1 it expects another number of payload bytes than
`n`, or in END2 it has seen a bad first end byte. (ESC is inside a token.) -/
def OutOfStep (n : Nat) (d : Decoder) : Prop :=
  match d.ds with
  | .hunt0 | .hunt1 => True
  | .pay => d.idx.val + n ≠ 5
  | .esc => False
  | .end1 => n ≠ 0
  | .end2 => d.e1ok = false

theorem OutOfStep.of_hunting {d : Decoder} (h : d.Hunting) (n : Nat) : OutOfStep n d := by
  obtain h | h := h <;> simp [OutOfStep, h]

/-- A decoder that does not expect `n + 1` payload bytes does not expect `n` after one of them. -/
theorem OutOfStep.store {n : Nat} {d : Decoder} (h : d.idx.val + (n + 1) ≠ 5) (c : Byte) : OutOfStep n (d.store c) := by
  by_cases h4 : d.idx = 4
  · rw [Decoder.store_of_last h4]
    rw [h4] at h
    rintro rfl
    exact h rfl
  · rw [Decoder.store_of_lt h4]
    change (d.idx + 1).val + n ≠ 5
    rw [val_succ_of_ne_last h4]
    omega

section
variable {d : Decoder} {n : Nat}

/-- Two bytes 0x10 leave a hunting decoder in HUNT1 (R123 a). -/
theorem decRun_escapes_of_hunting (h : d.Hunting) : decRun d [0x10#8, 0x10#8] = ({ d with ds := .hunt1 }, []) :=
  decRun_pair_of_quiet (decStep_of_hunting_escape h)
    (decStep_of_hunting_escape (d := { d with ds := .hunt1 }) (.inr rfl))

/-- A hunting decoder may find a false `START` in an escaped payload, for which the frame has not enough bytes left. -/
theorem outOfStep_decStep_of_hunting (h : d.Hunting) (hn : n < 5) {c : Byte} (hc : c ≠ 0x10#8) :
    ∃ d', decStep d c = (d', none) ∧ OutOfStep n d' := by
  obtain hds | hds := h
  · exact ⟨_, decStep_of_hunt0_noise hds hc, .of_hunting (.inl rfl) n⟩
  · by_cases hstart : c = 0x02#8
    · subst hstart
      refine ⟨_, decStep_of_hunt1_start hds, ?_⟩
      change 0 + n ≠ 5
      omega
    · exact ⟨_, decStep_of_hunt1_noise hds hstart hc, .of_hunting (.inl rfl) n⟩

/-- A decoder out of step stays so over a stuffed payload byte, and delivers nothing. -/
theorem OutOfStep.decRun_stuff (h : OutOfStep (n + 1) d) (hn : n < 5) (c : Byte) :
    ∃ d', decRun d (stuff c) = (d', []) ∧ OutOfStep n d' := by
  have hunt1 : OutOfStep n { d with ds := .hunt1 } := .of_hunting (.inr rfl) n
  cases hds : d.ds with
  | hunt0 | hunt1 =>
    have hhunt : d.Hunting := by simp [Decoder.Hunting, hds]
    by_cases hc : c = 0x10#8
    · subst hc
      exact ⟨_, decRun_escapes_of_hunting hhunt, hunt1⟩
    · obtain ⟨d', hstep, hout⟩ := outOfStep_decStep_of_hunting hhunt hn hc
      rw [stuff_plain hc]
      exact ⟨d', decRun_byte_of_quiet hstep, hout⟩
  | pay =>
    simp only [OutOfStep, hds] at h
    exact ⟨_, decRun_stuff_of_pay hds c, .store h c⟩
  | esc => simp [OutOfStep, hds] at h
  | end1 =>
    by_cases hc : c = 0x10#8
    · subst hc
      exact ⟨_, decRun_pair_of_quiet (decStep_of_end1 hds _) (decStep_of_end2_abort rfl (by simp)),
        .of_hunting (.inl rfl) n⟩
    · rw [stuff_plain hc]
      exact ⟨_, decRun_byte_of_quiet (decStep_of_end1 hds c), beq_false_of_ne hc⟩
  | end2 =>
    simp only [OutOfStep, hds] at h
    have hstep : decStep d c = ({ d with ds := .hunt0 }, none) := decStep_of_end2_abort hds (by simp [h])
    by_cases hc : c = 0x10#8
    · subst hc
      exact ⟨_, decRun_pair_of_quiet hstep (decStep_of_hunting_escape (.inl rfl)), hunt1⟩
    · rw [stuff_plain hc]
      exact ⟨_, decRun_byte_of_quiet hstep, .of_hunting (.inl rfl) n⟩

/-- `END` out of step delivers nothing, and the decoder is in HUNT0 after it. -/
theorem OutOfStep.decRun_end (h : OutOfStep 0 d) :
    ∃ d', decRun d [0x10#8, 0x03#8] = (d', []) ∧ d'.ds = .hunt0 := by
  cases hds : d.ds with
  | hunt0 | hunt1 =>
    have hhunt : d.Hunting := by simp [Decoder.Hunting, hds]
    exact ⟨_, decRun_pair_of_quiet (decStep_of_hunting_escape hhunt)
      (decStep_of_hunt1_noise rfl (by decide) (by decide)), rfl⟩
  | pay =>
    exact ⟨_, decRun_pair_of_quiet (decStep_of_pay_escape hds) (decStep_of_esc_abort rfl (by decide)), rfl⟩
  | esc | end1 => simp [OutOfStep, hds] at h
  | end2 =>
    simp only [OutOfStep, hds] at h
    exact ⟨_, decRun_pair_of_quiet (decStep_of_end2_abort hds (by simp [h]))
      (decStep_of_hunt0_noise rfl (by decide)), rfl⟩

/-- `START` puts a decoder that does not hunt out of step with the frame that it begins. -/
theorem outOfStep_start (h : ¬ d.Hunting) : ∃ d', decRun d [0x10#8, 0x02#8] = (d', []) ∧ OutOfStep 5 d' := by
  cases hds : d.ds with
  | hunt0 | hunt1 => exact absurd (by simp [Decoder.Hunting, hds]) h
  | pay =>
    exact ⟨_, decRun_pair_of_quiet (decStep_of_pay_escape hds) (decStep_of_esc_abort rfl (by decide)),
      .of_hunting (.inl rfl) 5⟩
  | esc =>
    rw [decRun_cons_of_quiet (decStep_of_esc_literal hds)]
    by_cases h4 : d.idx = 4
    · rw [Decoder.store_of_last h4]
      exact ⟨_, decRun_byte_of_quiet (decStep_of_end1 rfl _), rfl⟩
    · rw [Decoder.store_of_lt h4]
      refine ⟨_, decRun_byte_of_quiet (decStep_of_pay_plain rfl (by decide)), .store ?_ _⟩
      change (d.idx + 1).val + 6 ≠ 5
      omega
  | end1 =>
    exact ⟨_, decRun_pair_of_quiet (decStep_of_end1 hds _) (decStep_of_end2_abort rfl (by simp)),
      .of_hunting (.inl rfl) 5⟩
  | end2 =>
    exact ⟨_, decRun_pair_of_quiet (decStep_of_end2_abort hds (by simp)) (decStep_of_hunt0_noise rfl (by decide)),
      .of_hunting (.inl rfl) 5⟩

/-- The rest of a frame out of step delivers nothing, and the decoder is in HUNT0 after it. -/
theorem OutOfStep.decRun_rest {bs : List Byte} (h : OutOfStep bs.length d) (hlen : bs.length ≤ 5) :
    ∃ d', decRun d (bs.flatMap stuff ++ [0x10#8, 0x03#8]) = (d', []) ∧ d'.ds = .hunt0 := by
  induction bs generalizing d with
  | nil => exact h.decRun_end
  | cons c bs ih =>
    obtain ⟨d₁, hrun, hout⟩ := h.decRun_stuff hlen c
    rw [List.flatMap_cons, List.append_assoc, decRun_append_of_quiet hrun]
    exact ih hout (Nat.le_of_lt hlen)

/-- A decoder that does not hunt loses a frame, and is in HUNT0 after it (R142). -/
theorem decRun_encodeFrame_of_not_hunting (h : ¬ d.Hunting) (p : Payload) :
    ∃ d', decRun d (encodeFrame p) = (d', []) ∧ d'.ds = .hunt0 := by
  obtain ⟨d₁, hstart, hout⟩ := outOfStep_start h
  rw [encodeFrame, List.append_assoc, decRun_append_of_quiet hstart]
  exact OutOfStep.decRun_rest (bs := p.bytes) hout le_rfl

end

/-! ## Streams of frames -/

/-- Settles O25: the noise leaves the decoder hunting; and after the noise 10 02, which begins an attempt, the frame is
lost. -/
theorem noiseWithoutStartHidesNoFrame : Obligations.NoiseWithoutStartHidesNoFrame := by
  refine ⟨fun d noise p hds hclean => ?_, fun d noise p hds hclean => ?_, fun d hds => ?_⟩
  · rw [decRun_noise_encodeFrame (.inl hds) (by rwa [Decoder.held_of_hunt0 hds])]
    exact ⟨rfl, rfl⟩
  · rw [decRun_noise_encodeFrame (.inr hds) (by rwa [Decoder.held_of_hunt1 hds])]
    exact ⟨rfl, rfl⟩
  · obtain ⟨d', hrun, -⟩ := decRun_encodeFrame_of_not_hunting (d := { d with ds := .pay, idx := 0 })
      (by simp [Decoder.Hunting]) ⟨0, 0, 0, 0, 0⟩
    rw [decRun_append_of_quiet (decRun_start_of_hunting (.inl hds)), hrun]

/-- A decoder in HUNT0 receives every frame of a clean stream, and is in HUNT0 after them. -/
theorem decRun_frames_of_hunt0 {d : Decoder} (h : d.ds = .hunt0) (ps : List Payload) :
    (decRun d (ps.flatMap encodeFrame)).2 = ps ∧ (decRun d (ps.flatMap encodeFrame)).1.ds = .hunt0 := by
  induction ps generalizing d with
  | nil => exact ⟨rfl, h⟩
  | cons p ps ih =>
    obtain ⟨hout, hds⟩ := ih (d := ⟨.hunt0, 4, true, p⟩) rfl
    rw [List.flatMap_cons, decRun_append_of_run (decRun_encodeFrame_of_hunting (.inl h) p), hout]
    exact ⟨rfl, hds⟩

/-- Whatever the first frame delivers: when the decoder is in HUNT0 after it, the other frames are received. -/
theorem decRun_frames_cons {d d' : Decoder} {p : Payload} {out : List Payload}
    (hrun : decRun d (encodeFrame p) = (d', out)) (hds : d'.ds = .hunt0) (ps : List Payload) :
    (decRun d ((p :: ps).flatMap encodeFrame)).2 = out ++ ps ∧
      (decRun d ((p :: ps).flatMap encodeFrame)).1.ds = .hunt0 := by
  obtain ⟨hout, hlast⟩ := decRun_frames_of_hunt0 hds ps
  rw [List.flatMap_cons, decRun_append_of_run hrun, hout]
  exact ⟨rfl, hlast⟩

/-- Settles O27: the first frame is received or lost, and after it the decoder is in HUNT0. -/
theorem cleanStreamRecoversByTheSecondFrame : Obligations.CleanStreamRecoversByTheSecondFrame := by
  intro d ps
  cases ps with
  | nil => exact ⟨fun _ => rfl, fun _ => rfl, fun hne => absurd rfl hne⟩
  | cons p ps =>
    by_cases hhunt : d.Hunting
    · obtain ⟨hout, hds⟩ := decRun_frames_cons (decRun_encodeFrame_of_hunting hhunt p) rfl ps
      exact ⟨fun _ => hout, fun hnot => absurd hhunt hnot, fun _ => hds⟩
    · obtain ⟨d', hrun, hds'⟩ := decRun_encodeFrame_of_not_hunting hhunt p
      obtain ⟨hout, hds⟩ := decRun_frames_cons hrun hds' ps
      exact ⟨fun h => absurd h hhunt, fun _ => hout, fun _ => hds⟩

end Sys2Proof.Machine
end

section
/-! The decoder's run under every interleaving with the other agents (R137, R141): what the decoder reads and writes is as
if its bytes had been received one after the other. -/

namespace Sys2Proof.Machine
open Sys2Proof.Safety

/-! ## Agreement on what is the decoder's -/

/-- `t` is as `s` in everything the decoder writes, `RX` apart, and in the run's constants. -/
structure SameDecoder (s t : State) : Prop where
  dec : t.dec = s.dec
  delivered : t.delivered = s.delivered
  levels : t.act = { s.act with gpCur := t.act.gpCur, tickEn := t.act.tickEn }
  cfg : t.cfg = s.cfg

theorem SameDecoder.refl (s : State) : SameDecoder s s := ⟨rfl, rfl, rfl, rfl⟩

theorem SameDecoder.trans {s t u : State} (h : SameDecoder s t) (h' : SameDecoder t u) : SameDecoder s u where
  dec := h'.dec.trans h.dec
  delivered := h'.delivered.trans h.delivered
  levels := by rw [h'.levels, h.levels]
  cfg := h'.cfg.trans h.cfg

theorem SameDecoder.of_setRx {s t : State} {bs : List Byte} (h : SameDecoder (s.setRx bs) t) : SameDecoder s t :=
  ⟨h.dec, h.delivered, h.levels, h.cfg⟩

/-- A received byte has the same effect, whatever the other agents' registers hold. -/
theorem SameDecoder.after_byte {s t : State} (h : SameDecoder s t) (b : Byte) :
    SameDecoder (rxEffect b s) (rxEffect b t) := by
  have hstep : decStep t.dec b = decStep s.dec b := by rw [h.dec]
  cases hp : (decStep s.dec b).2 with
  | none =>
    rw [rxEffect_of_decStep_none hp, rxEffect_of_decStep_none (hstep ▸ hp), hstep]
    exact ⟨rfl, h.delivered, h.levels, h.cfg⟩
  | some p =>
    have hact : appliedAct t.cfg t.dec.pb t.act =
        { appliedAct s.cfg s.dec.pb s.act with gpCur := t.act.gpCur, tickEn := t.act.tickEn } := by
      rw [h.cfg, h.dec, h.levels, appliedAct, appliedAct]
    have hdec : { t.dec with ds := .hunt0 } = { s.dec with ds := .hunt0 } := by rw [h.dec]
    have hdel : t.delivered ++ [t.dec.pb] = s.delivered ++ [s.dec.pb] := by rw [h.delivered, h.dec]
    rw [rxEffect_of_decStep_some hp, rxEffect_of_decStep_some (hstep ▸ hp)]
    exact ⟨hdec, hdel, hact, h.cfg⟩

theorem SameDecoder.after_bytes {s t : State} (h : SameDecoder s t) (w : List Byte) :
    SameDecoder (rxEffects w s) (rxEffects w t) := by
  induction w generalizing s t with
  | nil => exact h
  | cons b w ih => exact ih (h.after_byte b)

/-! ## Events -/

/-- Nothing that is enabled writes the levels and the target but the decoder's instructions (R158). -/
theorem writesTarget_of_enabled {i : Instr} {s : State} (hen : enabled i s = true) (hw : writesDecoder i = false) :
    writesTarget i = false := by
  cases i with
  | wireRecord | encStart | txByte | tick | start | stop | encode | toLogical | toWire => rfl
  | applyCmd => cases hen
  | _ => cases hw

/-- An event of another agent leaves the decoder and what it has delivered and applied alone, and at most adds to `RX`. -/
theorem sameDecoder_after {e : Event} (hw : eventWrites writesDecoder true e = false) (s : State) :
    SameDecoder s (after e s) ∧ s.rx <+: (after e s).rx := by
  obtain ⟨b, -, ht⟩ | ht | ⟨i, hfetch, hen, hexec⟩ := perform_cases (perform_eq_after e s)
  · rw [ht]; exact ⟨⟨rfl, rfl, rfl, rfl⟩, List.prefix_append s.rx [b]⟩
  · rw [ht]; exact ⟨.refl s, List.prefix_refl _⟩
  · have hi : writesDecoder i = false := by
      cases e with
      | arrive => cases hfetch
      | byte | token => cases hw
      | record => cases hfetch; rfl
      | op j =>
        obtain ⟨-, heq⟩ := Option.ite_none_right_eq_some.1 hfetch
        cases heq; exact hw
    obtain ⟨hdecoder, -, hlevels, -, -, hcfg, -⟩ := registersAreWrittenOnlyByTheirOwners i s _ hexec
    obtain ⟨hdec, hrx, hdel⟩ := hdecoder hi
    obtain ⟨hdl, hdr, hah, hav, htgt⟩ := hlevels (writesTarget_of_enabled hen hi)
    refine ⟨⟨hdec, hdel, ?_, hcfg⟩, by rw [hrx]⟩
    simp only [← hdl, ← hdr, ← hah, ← hav, ← htgt]

/-- One `RX_BYTE` takes the front byte and has its effect. -/
theorem after_rxByte {s : State} {b : Byte} {rest : List Byte} (hrx : s.rx = b :: rest) :
    after (.op .rxByte) s = (rxEffect b s).setRx rest :=
  after_of_next ((perform_enabled (by simp [enabled, hrx])).trans (exec_rxByte_cons hrx))

/-- Over any schedule of `RX_BYTE`s, one for each byte of `w` at the front of `RX`, and of events of other agents, the
decoder receives `w`; `RX` keeps the rest and gains what arrives. -/
theorem sameDecoder_foldl {es : List Event} {w rest : List Byte}
    (hes : ∀ e ∈ es, e = .op .rxByte ∨ eventWrites writesDecoder true e = false)
    (hcount : es.count (.op .rxByte) = w.length) {s : State} (hrx : s.rx = w ++ rest) :
    SameDecoder (rxEffects w s) (es.foldl (fun u e => after e u) s) ∧
      rest <+: (es.foldl (fun u e => after e u) s).rx := by
  induction es generalizing s w rest with
  | nil =>
    obtain rfl := List.length_eq_zero_iff.1 hcount.symm
    exact ⟨.refl s, by rw [List.foldl_nil, hrx]; exact List.prefix_refl _⟩
  | cons e es ih =>
    obtain ⟨he, hrest⟩ := List.forall_mem_cons.1 hes
    by_cases hop : e = .op .rxByte
    · subst hop
      rw [List.count_cons_self] at hcount
      cases w with
      | nil => cases hcount
      | cons b w =>
        have hfold := ih hrest (Nat.succ.inj hcount) (s := (rxEffect b s).setRx (w ++ rest)) rfl
        rw [rxEffects_setRx] at hfold
        rw [List.foldl_cons, after_rxByte hrx]
        exact ⟨hfold.1.of_setRx, hfold.2⟩
    · rw [List.count_cons_of_ne hop] at hcount
      obtain ⟨hsame, later, harrived⟩ := sameDecoder_after (he.resolve_left hop) s
      rw [hrx, List.append_assoc] at harrived
      obtain ⟨hfold, hkept⟩ := ih hrest hcount harrived.symm
      exact ⟨(hsame.after_bytes w).trans hfold, (List.prefix_append rest later).trans hkept⟩

/-- Settles O23: the decoder receives `w`, and that is `dec_run`. -/
theorem decoderRunsIgnoreOtherAgents : Obligations.DecoderRunsIgnoreOtherAgents := by
  intro s w rest es hrx hes hcount
  obtain ⟨hsame, later, hkept⟩ := sameDecoder_foldl hes hcount hrx
  obtain ⟨hdec, hdel⟩ := rxEffects_decRun w s
  exact ⟨_, play_eq_foldl es s, hsame.dec.trans hdec, hsame.delivered.trans hdel, later, hkept.symm⟩

/-! ## The whole frame -/

/-- A run that delivers one payload has applied its command (R132, R158). -/
theorem rxEffects_act_of_delivered {w : List Byte} {s : State} {p : Payload} (h : (decRun s.dec w).2 = [p]) :
    (rxEffects w s).act = appliedAct s.cfg p s.act := by
  induction w generalizing s with
  | nil => cases h
  | cons b w ih =>
    have hrun : (decStep s.dec b).2.toList ++ (decRun (rxEffect b s).dec w).2 = [p] := by rw [rxEffect_dec]; exact h
    rw [rxEffects_cons]
    cases hp : (decStep s.dec b).2 with
    | none =>
      rw [hp] at hrun
      rw [ih hrun, rxEffect_of_decStep_none hp]
      rfl
    | some q =>
      rw [hp] at hrun
      obtain ⟨rfl, hquiet⟩ := List.cons.inj hrun
      obtain ⟨-, -, -, rfl, -⟩ := decStep_some hp
      rw [rxEffects_act hquiet, rxEffect_of_decStep_some hp, accept_act]

/-- Settles O24: the decoder receives the frame, which delivers its payload and so applies it. -/
theorem frameIsReceivedUnderAnyInterleaving : Obligations.FrameIsReceivedUnderAnyInterleaving := by
  intro s p rest es hhunt hrx hes hcount
  obtain ⟨hsame, -⟩ := sameDecoder_foldl hes hcount hrx
  have hrun := decRun_encodeFrame_of_hunting hhunt p
  obtain ⟨hdec, hdel⟩ := rxEffects_decRun (encodeFrame p) s
  have hact := hsame.levels
  rw [rxEffects_act_of_delivered (congrArg Prod.snd hrun)] at hact
  rw [← gripperTarget_flag]
  refine ⟨_, play_eq_foldl es s, ?_, ?_, ?_⟩
  · rw [State.setSched_dec, hsame.dec, hdec, hrun]
  · rw [State.setSched_delivered, hsame.delivered, hdel, hrun]
  · rw [State.setSched_act, hact]
    exact ⟨rfl, rfl, rfl, rfl, rfl⟩

end Sys2Proof.Machine
end

section
/-! The two conversions of the packet translator (R150 to R162). Everything about `unaxis` follows from one bound:
`round_haz` is within one half of its argument; on the axis interval the clamp is then idle. -/

namespace Sys2Proof.Machine

/-! ## Rounding and clamping -/

/-- `round_haz` rounds the magnitude to the nearest integer (R10). -/
theorem roundHaz_eq_round (v : Value) : roundHaz v = if 0 ≤ v then round v else -round (-v) := by
  rw [round_eq, round_eq]
  rfl

theorem abs_roundHaz_sub_le (v : Value) : |(roundHaz v : Value) - v| ≤ 1 / 2 := by
  rw [roundHaz_eq_round]
  split
  · rw [abs_sub_comm]
    exact abs_sub_round v
  · rw [Int.cast_neg, neg_sub_comm]
    exact abs_sub_round (-v)

/-- The integer within one half of a value is unique, so a value closer than one half to `k` is rounded to `k`. -/
theorem roundHaz_eq_of_near {v : Value} {k : Int} (h : |v - k| < 1 / 2) : roundHaz v = k := by
  have hdist : |(roundHaz v : Value) - k| < 1 := by
    calc |(roundHaz v : Value) - k| ≤ |(roundHaz v : Value) - v| + |v - k| := abs_sub_le _ _ _
      _ < 1 / 2 + 1 / 2 := add_lt_add_of_le_of_lt (abs_roundHaz_sub_le v) h
      _ = 1 := by norm_num
  exact sub_eq_zero.1 (Int.abs_lt_one_iff.1 (by exact_mod_cast hdist))

/-- Rounding does not carry a value past an integer. -/
theorem le_roundHaz {v : Value} {k : Int} (h : (k : Value) ≤ v) : k ≤ roundHaz v := by
  have hlow := (abs_le.1 (abs_roundHaz_sub_le v)).1
  have hlt : (k : Value) < (roundHaz v + 1 : Int) := by push_cast; linarith
  exact Int.lt_add_one_iff.1 (by exact_mod_cast hlt)

theorem roundHaz_le {v : Value} {k : Int} (h : v ≤ k) : roundHaz v ≤ k := by
  have hhigh := (abs_le.1 (abs_roundHaz_sub_le v)).2
  have hlt : (roundHaz v : Value) < (k + 1 : Int) := by push_cast; linarith
  exact Int.lt_add_one_iff.1 (by exact_mod_cast hlt)

theorem clamp_bounds {lo hi : Int} (h : lo ≤ hi) (k : Int) : lo ≤ clamp k lo hi ∧ clamp k lo hi ≤ hi := by
  unfold clamp
  split
  · omega
  · split <;> omega

theorem clamp_of_mem {k lo hi : Int} (hlo : lo ≤ k) (hhi : k ≤ hi) : clamp k lo hi = k := by
  rw [clamp, if_neg hlo.not_gt, if_neg hhi.not_gt]

/-! ## The axis conversions -/

/-- With `NUM_RND` the identity an axis value is the exact quotient (R151). -/
theorem axis_rational (k : Int) : axis (numRnd .rational) k = k / 127 := rfl

/-- The result of `unaxis` fits a signed byte, whatever its argument (R157). -/
theorem unaxis_bounds (x : Value) : -128 ≤ unaxis x ∧ unaxis x ≤ 127 := clamp_bounds (by decide) _

/-- On the axis interval the clamp is idle, and `unaxis` is as exact as rounding (R157). -/
theorem abs_unaxis_sub_le {x : Value} (hlo : -128 / 127 ≤ x) (hhi : x ≤ 1) : |(unaxis x : Value) - x * 127| ≤ 1 / 2 := by
  have hmin : -128 ≤ roundHaz (x * 127) := le_roundHaz (by push_cast; linarith)
  have hmax : roundHaz (x * 127) ≤ 127 := roundHaz_le (by push_cast; linarith)
  rw [unaxis, Config.scale_eq, clamp_of_mem hmin hmax]
  exact abs_roundHaz_sub_le (x * 127)

/-- A value within half a step of the axis value of `k` is read as `k` (R160). -/
theorem unaxis_eq_of_near {x : Value} {k : Int} (hlo : -128 ≤ k) (hhi : k ≤ 127) (h : |x * 127 - k| < 1 / 2) :
    unaxis x = k := by
  rw [unaxis, Config.scale_eq, roundHaz_eq_of_near h, clamp_of_mem hlo hhi]

/-- From 1 on, `unaxis` saturates (R157). -/
theorem unaxis_of_one_le {x : Value} (h : 1 ≤ x) : unaxis x = 127 := by
  have hmin : 127 ≤ roundHaz (x * 127) := le_roundHaz (by push_cast; linarith)
  rw [unaxis, Config.scale_eq, clamp]
  split <;> omega

/-- Settles O37: `axis` is division by a positive constant, followed by `NUM_RND`. -/
theorem axisIsMonotonic : Obligations.AxisIsMonotonic := by
  have hdiv : ∀ k l : Int, k < l → (k : Value) / 127 < l / 127 := fun k l h =>
    div_lt_div_of_pos_right (Int.cast_lt.2 h) (by norm_num)
  refine ⟨hdiv, fun rnd hrnd k l h => hrnd _ _ (hdiv k l h).le, ?_, fun k => ?_⟩
  · rw [axis_rational, Int.cast_zero, zero_div]
  · rw [axis_rational, axis_rational, Int.cast_neg, neg_div]

/-! ## Records and commands -/

theorem toInt_byteOfSint8_unaxis (x : Value) : (byteOfSint8 (unaxis x)).toInt = unaxis x := by
  rw [← sint8_eq_toInt, sint8_byteOfSint8 (unaxis_bounds x)]

/-- Settles O39: what `unaxis` returns is in the signed 8-bit range, so its byte stands for it. -/
theorem toWireWritesEachField : Obligations.ToWireWritesEachField := fun cmd =>
  ⟨toInt_byteOfSint8_unaxis cmd.left, toInt_byteOfSint8_unaxis cmd.right, toInt_byteOfSint8_unaxis cmd.h,
    toInt_byteOfSint8_unaxis cmd.v, rfl⟩

/-- The Flag of a byte is a test against zero (R153). -/
theorem flag_uint8 (b : Byte) : flag (uint8 b) = decide (b ≠ 0) :=
  decide_eq_decide.2 (BitVec.toNat_eq (y := 0#8)).not.symm

/-- The gripper byte comes back as 0 or 1 (R160). -/
theorem unflag_flag_uint8 (b : Byte) : unflag (flag (uint8 b)) = if b = 0 then 0 else 1 := by
  simp only [unflag, flag_uint8, ne_eq, decide_eq_true_eq, ite_not]
  rfl

/-- An axis byte comes back unchanged when `NUM_RND` stays within half a step (R160). -/
theorem byteOfSint8_unaxis_axis {rnd : Value → Value}
    (hrnd : ∀ k : Int, -128 ≤ k → k ≤ 127 → |rnd ((k : Value) / 127) * 127 - k| < 1 / 2) (b : Byte) :
    byteOfSint8 (unaxis (axis rnd (sint8 b))) = b := by
  obtain ⟨hlo, hhi⟩ := sint8_bounds b
  rw [axis, Config.scale_eq, unaxis_eq_of_near hlo hhi (hrnd _ hlo hhi), byteOfSint8_sint8]

theorem toWire_toLogical {rnd : Value → Value}
    (hrnd : ∀ k : Int, -128 ≤ k → k ≤ 127 → |rnd ((k : Value) / 127) * 127 - k| < 1 / 2) (p : Payload) :
    toWire (toLogical rnd p) = { p with b4 := if p.b4 = 0 then 0 else 1 } := by
  simp only [toWire, toLogical, logicalOfFields, byteOfSint8_unaxis_axis hrnd, unflag_flag_uint8]

/-- Settles O40: field by field; the identity is exact, so it stays within half a step. -/
theorem recordSurvivesTheRoundTrip : Obligations.RecordSurvivesTheRoundTrip := by
  refine ⟨fun rnd p hrnd => toWire_toLogical hrnd p, fun p hgrip => ?_⟩
  have hexact : ∀ k : Int, -128 ≤ k → k ≤ 127 → |numRnd .rational ((k : Value) / 127) * 127 - k| < 1 / 2 := by
    intro k _ _
    norm_num [numRnd]
  have hflag : (if p.b4 = 0 then 0 else 1) = p.b4 := by
    obtain h | h := hgrip
    · rw [if_pos h, h]
    · rw [h]; rfl
  rw [toWire_toLogical hexact, hflag]

/-- Settles O41: the rounding error of one half, divided by 127. -/
theorem quantisationErrorIsBounded : Obligations.QuantisationErrorIsBounded := by
  refine ⟨fun x hlo hhi => ?_, ?_, fun f => ?_⟩
  · obtain ⟨hneg, hpos⟩ := abs_le.1 (abs_unaxis_sub_le (by linarith) hhi)
    rw [axis_rational, abs_le]
    constructor <;> linarith
  · rw [unaxis_of_one_le (by norm_num), axis_rational]
    norm_num
  · cases f <;> rfl

/-- Settles O35: the fields of a record are the two's-complement values of its bytes. -/
theorem toLogicalDividesBy127 : Obligations.ToLogicalDividesBy127 := by
  intro rnd p
  simp only [toLogical, logicalOfFields, axis, Config.scale_eq, sint8_eq_toInt, flag_uint8]

/-- Settles O42: APPLY is `applyCommand` written out, and no agent may invoke it. -/
theorem applyWritesTheFiveRegisters : Obligations.ApplyWritesTheFiveRegisters := fun _ _ => ⟨rfl, rfl⟩

end Sys2Proof.Machine
end

section
/-! The smoothing register (R170 to R178). Everything rests on one fact: a tick multiplies the signed distance from the
position to the target by 3/4. -/

namespace Sys2Proof.Machine
open Sys2Proof.Safety

-- One proof after the other, to keep the memory the compile asks for at once within the check's limit.
set_option Elab.async false

/-! ## What an event does to the position and to `TICK_EN` -/

/-- Only `TICK` and `RESET` write the position (R41). -/
theorem writesPosition_iff {i : Instr} : writesPosition i = true ↔ i = .tick ∨ i = .reset := by
  cases i <;> simp [writesPosition]

/-- Only `START`, `STOP` and `RESET` write `TICK_EN` (R41). -/
theorem writesTickEn_iff {i : Instr} : writesTickEn i = true ↔ i = .start ∨ i = .stop ∨ i = .reset := by
  cases i <;> simp [writesTickEn]

/-- What an event can do to the actuator registers and the constants: nothing, or what an enabled
instruction does, which the event names unless it has an encoded form (R88). -/
theorem after_act_cases (e : Event) (s : State) :
    ((after e s).act = s.act ∧ (after e s).cfg = s.cfg) ∨
    ∃ i, (i.source = none → e = .op i) ∧ enabled i s = true ∧ exec i s = .next (after e s) := by
  obtain ⟨b, -, ht⟩ | ht | ⟨i, hfetch, hen, hexec⟩ := perform_cases (perform_eq_after e s)
  · rw [ht]; exact .inl ⟨rfl, rfl⟩
  · rw [ht]; exact .inl ⟨rfl, rfl⟩
  · refine .inr ⟨i, fun hnone => ?_, hen, hexec⟩
    obtain he | ⟨src, hsrc⟩ := source_of_fetch hfetch
    · exact he
    · cases hnone.symm.trans hsrc

/-- No event writes the run's constants (R37). -/
theorem after_cfg (e : Event) (s : State) : (after e s).cfg = s.cfg := by
  obtain ⟨-, hcfg⟩ | ⟨i, -, -, hexec⟩ := after_act_cases e s
  · exact hcfg
  · obtain ⟨-, -, -, -, -, hcfg, -⟩ := registersAreWrittenOnlyByTheirOwners i s _ hexec
    exact hcfg

/-- The position stays, unless the event is a tick that is enabled, or RESET. -/
theorem after_gpCur_cases (e : Event) (s : State) :
    (after e s).act.gpCur = s.act.gpCur ∨ (e = .op .tick ∧ s.act.tickEn = true) ∨ e = .op .reset := by
  obtain ⟨hact, -⟩ | ⟨i, hname, hen, hexec⟩ := after_act_cases e s
  · exact .inl (by rw [hact])
  obtain ⟨-, -, -, hkept, -⟩ := registersAreWrittenOnlyByTheirOwners i s _ hexec
  cases hw : writesPosition i with
  | false => exact .inl (hkept hw)
  | true =>
    obtain rfl | rfl := writesPosition_iff.1 hw
    · exact .inr (.inl ⟨hname rfl, hen⟩)
    · exact .inr (.inr (hname rfl))

/-- `TICK_EN` stays, unless the event is `START`, `STOP` or RESET. -/
theorem after_tickEn_cases (e : Event) (s : State) :
    (after e s).act.tickEn = s.act.tickEn ∨ e = .op .start ∨ e = .op .stop ∨ e = .op .reset := by
  obtain ⟨hact, -⟩ | ⟨i, hname, -, hexec⟩ := after_act_cases e s
  · exact .inl (by rw [hact])
  obtain ⟨-, -, -, -, hkept, -⟩ := registersAreWrittenOnlyByTheirOwners i s _ hexec
  cases hw : writesTickEn i with
  | false => exact .inl (hkept hw)
  | true =>
    obtain rfl | rfl | rfl := writesTickEn_iff.1 hw
    · exact .inr (.inl (hname rfl))
    · exact .inr (.inr (.inl (hname rfl)))
    · exact .inr (.inr (.inr (hname rfl)))

theorem exec_tick_of_enabled {s : State} (h : s.act.tickEn = true) : exec .tick s =
    .next (s.setAct { s.act with gpCur := easeStep (numRnd s.cfg.numFmt) s.act.gpCur s.act.gpTgt }) := if_pos h

theorem after_tick {s : State} (h : s.act.tickEn = true) : after (.op .tick) s =
    s.setAct { s.act with gpCur := easeStep (numRnd s.cfg.numFmt) s.act.gpCur s.act.gpTgt } :=
  after_of_next ((perform_enabled (i := .tick) h).trans (exec_tick_of_enabled h))

theorem after_stop (s : State) : after (.op .stop) s = s.setAct { s.act with tickEn := false } :=
  after_of_next (perform_enabled rfl)

theorem after_reset_tickEn (s : State) : (after (.op .reset) s).act.tickEn = false := by
  rw [after_of_next (perform_enabled rfl)]
  rfl

/-! ## The operations -/

/-- Settles O46: by definition, `START` and `STOP` write `TICK_EN` only. -/
theorem startAndStopWriteOnlyTickEn : Obligations.StartAndStopWriteOnlyTickEn := fun _ => ⟨rfl, rfl⟩

/-- Settles O45: the tick is enabled, and one quarter of the way from a to b is (3a + b)/4. -/
theorem tickMovesOneQuarter : Obligations.TickMovesOneQuarter := by
  intro s hon
  refine ⟨exec_tick_of_enabled hon, fun hfmt => ?_⟩
  have hquarter : s.act.gpCur + (s.act.gpTgt - s.act.gpCur) / 4 = (3 * s.act.gpCur + s.act.gpTgt) / 4 := by ring
  rw [exec_tick_of_enabled hon, hfmt, ← hquarter]
  rfl

/-- While the tick is inactive, only `START` and RESET can activate it or move the gripper. -/
theorem after_of_stopped {e : Event} {s : State} (hon : s.act.tickEn = false)
    (he : e ≠ .op .start ∧ e ≠ .op .reset) :
    (after e s).act.tickEn = false ∧ (after e s).act.gpCur = s.act.gpCur := by
  obtain ⟨hstart, hreset⟩ := he
  constructor
  · obtain hkept | rfl | rfl | rfl := after_tickEn_cases e s
    · rw [hkept, hon]
    · exact absurd rfl hstart
    · rw [after_stop]; rfl
    · exact absurd rfl hreset
  · obtain hkept | ⟨-, hticks⟩ | rfl := after_gpCur_cases e s
    · exact hkept
    · rw [hon] at hticks; cases hticks
    · exact absurd rfl hreset

theorem foldl_after_of_stopped {es : List Event} (hes : ∀ e ∈ es, e ≠ .op .start ∧ e ≠ .op .reset) {s : State}
    (hon : s.act.tickEn = false) :
    (es.foldl (fun u e => after e u) s).act.tickEn = false ∧
      (es.foldl (fun u e => after e u) s).act.gpCur = s.act.gpCur := by
  induction es generalizing s with
  | nil => exact ⟨hon, rfl⟩
  | cons e es ih =>
    obtain ⟨he, hrest⟩ := List.forall_mem_cons.1 hes
    obtain ⟨hon', hcur⟩ := after_of_stopped hon he
    rw [← hcur]
    exact ih hrest hon'

/-- Settles O47: `STOP` makes the tick inactive, and it stays so with the position where it was. -/
theorem noTickAfterStop : Obligations.NoTickAfterStop := by
  intro s es hes
  refine ⟨_, by rw [play_cons_after, play_eq_foldl], ?_⟩
  rw [after_stop]
  exact foldl_after_of_stopped hes (s := s.setAct { s.act with tickEn := false }) rfl

/-! ## The distance to the target -/

/-- The key fact: a step leaves three quarters of the signed distance (R171, R177). -/
theorem easeStep_sub (p t : Value) : easeStep (numRnd .rational) p t - t = (p - t) * (3 / 4) := by
  change p + (t - p) / 4 - t = _
  ring

/-- A step shortens the distance by 3/4 (R178 a). -/
theorem abs_easeStep_sub (p t : Value) : |easeStep (numRnd .rational) p t - t| = |p - t| * (3 / 4) := by
  rw [easeStep_sub, abs_mul, abs_of_pos (show (0 : Value) < 3 / 4 by norm_num)]

/-- A step from a position that is not the target lands strictly between the two (R178 d). -/
theorem easeStep_strictly_between {p t : Value} (h : p ≠ t) :
    min p t < easeStep (numRnd .rational) p t ∧ easeStep (numRnd .rational) p t < max p t := by
  have hsub := easeStep_sub p t
  obtain hlt | hgt := lt_or_gt_of_ne h
  · rw [min_eq_left hlt.le, max_eq_right hlt.le]
    constructor <;> linarith
  · rw [min_eq_right hgt.le, max_eq_left hgt.le]
    constructor <;> linarith

/-- Enough factors 3/4 bring any distance under any positive bound. -/
theorem exists_mul_pow_lt {a ε : Value} (ha : 0 ≤ a) (hε : 0 < ε) : ∃ k : Nat, a * (3 / 4) ^ k < ε := by
  obtain rfl | hpos := ha.eq_or_lt
  · exact ⟨0, by rwa [zero_mul]⟩
  · obtain ⟨k, hk⟩ := exists_pow_lt_of_lt_one (div_pos hε hpos) (show (3 / 4 : Value) < 1 by norm_num)
    exact ⟨k, (lt_div_iff₀' hpos).1 hk⟩

/-! ## Runs toward a fixed target -/

/-- In a run of `n` enabled ticks the signed distance to the target is multiplied by 3/4 `n` times (R177). -/
theorem gpCur_sub_of_easingRun {n : Nat} {s t : State} (h : EasingRun n s t) (hfmt : s.cfg.numFmt = .rational) :
    t.act.gpCur - s.act.gpTgt = (s.act.gpCur - s.act.gpTgt) * (3 / 4) ^ n := by
  induction h with
  | done s => rw [pow_zero, mul_one]
  | ticked hon htick _ ih =>
    have ht := after_of_next htick
    rw [after_tick hon, hfmt] at ht
    subst ht
    have hrest := ih hfmt
    simp only [State.setAct_act, easeStep_sub] at hrest
    rw [hrest, pow_succ', mul_assoc]
  | between e hperf htgt hcur _ ih =>
    rw [← htgt, ← hcur]
    exact ih (by rw [← after_of_next hperf, after_cfg, hfmt])

/-- Settles O48: the signed distance of the run, solved for the position. -/
theorem gripperFollowsTheClosedForm : Obligations.GripperFollowsTheClosedForm := by
  intro n s t hfmt hrun
  linear_combination gpCur_sub_of_easingRun hrun hfmt

/-- The signed distance of an easing sequence from its target (R177). -/
theorem easing_sub {t : Value} {p : Nat → Value} (hp : ∀ n, p (n + 1) = easeStep (numRnd .rational) (p n) t)
    (n : Nat) : p n - t = (p 0 - t) * (3 / 4) ^ n := by
  induction n with
  | zero => rw [pow_zero, mul_one]
  | succ n ih => rw [hp, easeStep_sub, ih, pow_succ, mul_assoc]

/-- Settles O49: each clause from the signed distance of the sequence or of one step. -/
theorem gripperConvergesWithoutOvershoot : Obligations.GripperConvergesWithoutOvershoot := by
  rintro p0 t p rfl hp
  have hdist (n : Nat) : |p n - t| = |p 0 - t| * (3 / 4) ^ n := by
    rw [easing_sub hp, abs_mul, abs_of_pos (show (0 : Value) < (3 / 4) ^ n by positivity)]
  refine ⟨hdist, fun hne => ⟨fun n => ?_, fun ε hε => ?_⟩, fun heq n => ?_, fun n hne => ?_⟩
  · have hpos : 0 < |p n - t| := by
      rw [hdist]
      exact mul_pos (abs_pos.2 (sub_ne_zero.2 hne)) (by positivity)
    refine ⟨?_, sub_ne_zero.1 (abs_pos.1 hpos)⟩
    rw [hp, abs_easeStep_sub]
    linarith
  · obtain ⟨m, hm⟩ := exists_mul_pow_lt (abs_nonneg (p 0 - t)) hε
    refine ⟨m, fun n hmn => lt_of_le_of_lt ?_ hm⟩
    rw [hdist]
    exact mul_le_mul_of_nonneg_left (pow_le_pow_of_le_one (by norm_num) (by norm_num) hmn) (abs_nonneg _)
  · rw [← sub_eq_zero, easing_sub hp, heq, sub_self, zero_mul]
  · rw [hp]
    exact easeStep_strictly_between hne

/-! ## Infinite executions -/

theorem stateAt_cfg (c : Course) (s : State) (n : Nat) : (stateAt c s n).cfg = s.cfg := by
  induction n with
  | zero => rfl
  | succ n ih => rw [stateAt_succ, after_cfg, ih]

/-- An event that leaves the tick active and is no tick leaves the position where it was: RESET would deactivate it. -/
theorem after_gpCur_of_ne_tick {e : Event} {s : State} (hne : e ≠ .op .tick) (hon : (after e s).act.tickEn = true) :
    (after e s).act.gpCur = s.act.gpCur := by
  obtain hkept | ⟨htick, -⟩ | rfl := after_gpCur_cases e s
  · exact hkept
  · exact absurd htick hne
  · rw [after_reset_tickEn] at hon
    cases hon

/-- From moment `n` on, `TICK_EN` stays 1 and the target stays `t`. -/
def EasesFrom (c : Course) (s : State) (n : Nat) (t : Value) : Prop :=
  ∀ m, n ≤ m → (stateAt c s m).act.tickEn = true ∧ (stateAt c s m).act.gpTgt = t

/-- How far the gripper is from `t` at moment `m`. -/
def distanceAt (c : Course) (s : State) (t : Value) (m : Nat) : Value := |(stateAt c s m).act.gpCur - t|

section
variable {c : Course} {s : State} {n : Nat} {t : Value} (hfmt : s.cfg.numFmt = .rational) (hease : EasesFrom c s n t)
include hfmt hease

/-- A tick leaves three quarters of the distance. -/
theorem EasesFrom.distanceAt_succ_of_tick {m : Nat} (hm : n ≤ m) (htick : c m = .op .tick) :
    distanceAt c s t (m + 1) = distanceAt c s t m * (3 / 4) := by
  obtain ⟨hon, htgt⟩ := hease m hm
  rw [distanceAt, stateAt_succ, htick, after_tick hon, stateAt_cfg, hfmt, htgt]
  exact abs_easeStep_sub _ t

/-- No event takes the gripper away from the target. -/
theorem EasesFrom.distanceAt_succ_le {m : Nat} (hm : n ≤ m) : distanceAt c s t (m + 1) ≤ distanceAt c s t m := by
  by_cases htick : c m = .op .tick
  · have hnonneg : 0 ≤ distanceAt c s t m := abs_nonneg _
    rw [hease.distanceAt_succ_of_tick hfmt hm htick]
    linarith
  · obtain ⟨hon, -⟩ := hease (m + 1) (Nat.le_succ_of_le hm)
    rw [distanceAt, stateAt_succ, after_gpCur_of_ne_tick htick hon, distanceAt]

theorem EasesFrom.distanceAt_antitone {m m' : Nat} (hm : n ≤ m) (hle : m ≤ m') :
    distanceAt c s t m' ≤ distanceAt c s t m :=
  antitoneOn_nat_Ici_of_succ_le (fun _ h => hease.distanceAt_succ_le hfmt h) hm (hm.trans hle) hle

/-- Fairness brings one tick after the other, so the distance falls below every multiple by a power of 3/4. -/
theorem EasesFrom.exists_distanceAt_le (hfair : TickFair c s) (k : Nat) :
    ∃ m, n ≤ m ∧ distanceAt c s t m ≤ distanceAt c s t n * (3 / 4) ^ k := by
  induction k with
  | zero => exact ⟨n, le_rfl, by rw [pow_zero, mul_one]⟩
  | succ k ih =>
    obtain ⟨m, hm, hdist⟩ := ih
    obtain ⟨m', hm', htick⟩ := hfair m fun j hj => (hease j (hm.trans hj)).1
    refine ⟨m' + 1, by omega, ?_⟩
    calc distanceAt c s t (m' + 1)
        = distanceAt c s t m' * (3 / 4) := hease.distanceAt_succ_of_tick hfmt (hm.trans hm') htick
      _ ≤ distanceAt c s t m * (3 / 4) := by linarith [hease.distanceAt_antitone hfmt hm hm']
      _ ≤ distanceAt c s t n * (3 / 4) ^ (k + 1) := by rw [pow_succ]; linarith

end

/-- Settles O55: some moment has had ticks enough, and from there on the distance does not grow. -/
theorem fairTicksBringTheGripperToItsTarget : Obligations.FairTicksBringTheGripperToItsTarget := by
  intro c s n t hfmt hfair hease ε hε
  have hease : EasesFrom c s n t := hease
  obtain ⟨k, hk⟩ := exists_mul_pow_lt (abs_nonneg _ : 0 ≤ distanceAt c s t n) hε
  obtain ⟨m₀, hm₀, hdist⟩ := hease.exists_distanceAt_le hfmt hfair k
  exact ⟨m₀, fun m hm => (hease.distanceAt_antitone hfmt hm₀ hm).trans_lt (hdist.trans_lt hk)⟩

end Sys2Proof.Machine
end

section
/-! No refusal (R190), and the operations that fall on one clock edge (R198). A clock edge is a run in R198's order, so
the tick reads the target before the accept of the same edge writes it, and `STOP` comes after both. -/

namespace Sys2Proof.Machine

-- One proof after the other, to keep the memory the compile asks for at once within the check's limit.
set_option Elab.async false

/-! ## Nothing stops the block -/

/-- Every step answers a next state: it performs an event, or none is left. -/
theorem step_next (s : State) : ∃ t, step s = .next t := by
  cases hsched : s.sched with
  | nil => exact ⟨s, step_nil hsched⟩
  | cons e rest => rw [step_cons hsched]; exact perform_next e _

/-- Settles O7: every instruction is total, and with it every event and so every step. -/
theorem nothingEverStopsTheBlock : Obligations.NothingEverStopsTheBlock := ⟨exec_next, step_next⟩

/-! ## One clock edge -/

/-- The run of a single event is that event. -/
theorem play_singleton (e : Event) (s : State) : play [e] s = perform e (s.setSched []) := by
  obtain ⟨t, ht⟩ := perform_next e (s.setSched [])
  rw [play_cons, ht]
  rfl

/-- `RX_BYTE` on a good second end byte is the accept (R130, R132). -/
theorem after_rxByte_accept {s : State} {rest : List Byte} (hds : s.dec.ds = .end2) (he : s.dec.e1ok = true)
    (hrx : s.rx = 0x03#8 :: rest) : after (.op .rxByte) s = (accept s).setRx rest := by
  rw [after_rxByte hrx, rxEffect_accept hds he]

/-- RESET overrides the other operations of its edge (R198). -/
theorem clockEdge_of_reset {e : Edge} (h : e.reset = true) (s : State) :
    clockEdge e s = exec .reset (s.setSched []) := by
  rw [clockEdge, edgeEvents, if_pos h, play_singleton, perform_enabled rfl]

/-- An edge with `TICK`, `RX_BYTE` and `STOP` performs them in this order (R198). -/
theorem clockEdge_tick_rx_stop (s : State) :
    clockEdge { tick := true, rx := true, encoder := none, control := some .stop, reset := false } s =
      .next ((after (.op .stop) (after (.op .rxByte) (after (.op .tick) s))).setSched []) :=
  play_eq_foldl [.op .tick, .op .rxByte, .op .stop] s

/-- Settles O53: the position is the tick's, computed before the accept; target and delivery are the accept's, on
decoder registers that the tick leaves alone; and `STOP` is last. -/
theorem clockEdgeReadsTheOldTarget : Obligations.ClockEdgeReadsTheOldTarget := by
  refine ⟨fun s rest _ hon hds he hrx => ⟨_, clockEdge_tick_rx_stop s, ?_⟩, fun e s h => clockEdge_of_reset h s⟩
  rw [after_tick hon, after_rxByte_accept (rest := rest), after_stop, ← gripperTarget_flag]
  · exact ⟨rfl, rfl, rfl, rfl⟩
  · exact hds
  · exact he
  · exact hrx

end Sys2Proof.Machine
end

section
/-! RESET (R220, R221): the registers take their reset values, and `TX` starts afresh without unsending a byte, because
what was pushed is set aside in `txPrior`. -/

namespace Sys2Proof.Machine

-- One proof after the other, to keep the memory the compile asks for at once within the check's limit.
set_option Elab.async false

/-- Settles O50: each register is the field of that name in the decoder, encoder and actuators after RESET, and `RX` is
not written. -/
theorem resetRestoresTheResetValues : Obligations.ResetRestoresTheResetValues := fun _ =>
  ⟨_, rfl, rfl, rfl, rfl, rfl, rfl, rfl, rfl, rfl, rfl, rfl, rfl, rfl⟩

/-- A state that sets aside all that was handed out, and starts `TX` afresh, has unsent nothing (R221 b). -/
theorem wireOut_of_setAside {s t : State} (hprior : t.txPrior = wireOut s) (htx : t.tx = []) :
    wireOut t = wireOut s := by
  rw [wireOut, hprior, htx, List.append_nil]

/-- Settles O51: RESET sets aside what was handed out; the constants, the schedule and the returned value are not
written. -/
theorem resetKeepsWhatWasSent : Obligations.ResetKeepsWhatWasSent := fun _ =>
  ⟨_, rfl, wireOut_of_setAside rfl rfl, rfl, rfl, rfl, rfl⟩

end Sys2Proof.Machine
end

section
/-! The HUNT1 rows of the decoder (R123), `ENC_START` (R104), and what the registers hold at power-on (R222). -/

namespace Sys2Proof.Machine

-- One proof after the other, to keep the memory the compile asks for at once within the check's limit.
set_option Elab.async false

/-- Settles O14: HUNT1 decodes by whether the byte is 0x02, 0x10 or neither; 0x10 writes `DS` with what it held. -/
theorem hunt1RowsFollowTheirRule : Obligations.Hunt1RowsFollowTheirRule := by
  intro s rest b hrx hds
  refine ⟨fun hb => ?_, fun hb => ?_, fun hstart hesc => ?_⟩
  · subst hb
    refine rowRuns_of_effect (u := beginAttempt s) hrx ?_ (rxEffect_hunt1 _ hds)
    rw [hds]; rfl
  · subst hb
    refine rowRuns_of_effect (u := s) hrx ?_ ?_
    · rw [hds]; rfl
    · rw [rxEffect_hunt1 _ hds, setDs_self hds]; rfl
  · refine rowRuns_of_effect (u := setDs .hunt0 s) hrx ?_ ?_
    · rw [hds]; exact (if_neg hstart).trans (if_neg hesc)
    · rw [rxEffect_hunt1 b hds]; exact (if_neg hstart).trans (if_neg hesc)

/-- Settles O29: `ENC_START` writes the encoder registers when `ES` = IDLE, and nothing when it is not (D10). -/
theorem encStartLoadsAnIdleEncoder : Obligations.EncStartLoadsAnIdleEncoder := fun _ _ =>
  ⟨execEncStart_of_idle, execEncStart_of_busy⟩

/-- Settles O52: these registers have a value in the table of R39, and `State.reset` holds it (D12). -/
theorem resetStateIsAtRest : Obligations.ResetStateIsAtRest :=
  ⟨rfl, rfl, rfl, rfl, rfl, rfl, rfl, rfl, rfl⟩

end Sys2Proof.Machine
end

section
/-! The ends of the axis range (R152, R157): -128 is the one numerator below -127, and an integer and a half is rounded
away from zero. -/

namespace Sys2Proof.Machine

-- One proof after the other, to keep the memory the compile asks for at once within the check's limit.
set_option Elab.async false

/-! ## Axis values -/

/-- 0x80 is the byte of -128 (R9). -/
theorem sint8_eq_neg_128_iff {b : Byte} : sint8 b = -128 ↔ b = 0x80#8 := by
  rw [sint8_eq_toInt]
  exact BitVec.toInt_inj (y := 0x80#8)

/-- Settles O36: `axis` divides an integer from -128 to 127 by 127, and does not clamp (D4). -/
theorem axisIsNotClamped : Obligations.AxisIsNotClamped := by
  refine ⟨fun b => ?_, rfl⟩
  obtain ⟨hlo, hhi⟩ := sint8_bounds b
  have hlo' : (-128 : Value) ≤ sint8 b := by exact_mod_cast hlo
  have hhi' : (sint8 b : Value) ≤ 127 := by exact_mod_cast hhi
  rw [axis_rational, ← sint8_eq_neg_128_iff, div_lt_iff₀ (by norm_num)]
  refine ⟨by linarith, by linarith, ?_⟩
  calc (sint8 b : Value) < -1 * 127 ↔ sint8 b < -127 := by rw [← Int.cast_lt (R := Value)]; norm_num
    _ ↔ sint8 b = -128 := by omega

/-! ## Rounding ties -/

/-- `round_haz` treats both signs alike (R10). -/
theorem roundHaz_neg (v : Value) : roundHaz (-v) = -roundHaz v := by
  rw [roundHaz_eq_round, roundHaz_eq_round, neg_neg]
  obtain hneg | rfl | hpos := lt_trichotomy v 0
  · rw [if_pos (by linarith), if_neg hneg.not_ge, neg_neg]
  · simp
  · rw [if_neg (by linarith), if_pos hpos.le]

/-- A tie goes away from zero (R10). -/
theorem roundHaz_tie {m : Int} (hm : 0 ≤ m) : roundHaz ((2 * m + 1) / 2) = m + 1 := by
  have hnonneg : (0 : Value) ≤ (2 * m + 1) / 2 := by positivity
  have hsum : ((2 * m + 1) / 2 + 1 / 2 : Value) = (m + 1 : Int) := by push_cast; ring
  rw [roundHaz, if_pos hnonneg, hsum]
  exact Rat.floor_intCast _

/-- Down from -128/127, `unaxis` saturates (R157). -/
theorem unaxis_of_le {x : Value} (h : x ≤ -128 / 127) : unaxis x = -128 := by
  have hmax : roundHaz (x * 127) ≤ -128 := roundHaz_le (by push_cast; linarith)
  rw [unaxis, Config.scale_eq, clamp]
  split <;> omega

/-- Settles O38: one half is the bound of rounding, the ties are those of `round_haz` scaled by 127, and beyond the ends
the clamp decides (D5). -/
theorem unaxisRoundsThenSaturates : Obligations.UnaxisRoundsThenSaturates := by
  have hscale : ∀ m : Int, ((2 * m + 1) / 254 * 127 : Value) = (2 * m + 1) / 2 := fun m => by ring
  refine ⟨fun x hlo hhi => abs_unaxis_sub_le hlo hhi, fun m hlo hhi => ?_, fun m hlo hhi => ?_,
    fun x h => unaxis_of_one_le h, fun x h => unaxis_of_le h⟩
  · rw [unaxis, Config.scale_eq, hscale, roundHaz_tie hlo, clamp_of_mem (by omega) (by omega)]
  · rw [unaxis, Config.scale_eq, neg_mul, hscale, roundHaz_neg, roundHaz_tie hlo, clamp_of_mem (by omega) (by omega)]

end Sys2Proof.Machine
end
